-- ==== Sys2Proof/Word.lean ====
section
/-! DEFINITION. The word types of the Micro-ISA (spec/00_scope.md R5, R7). Bit 0 is the least significant bit. -/

namespace Sys2Proof

/-- An 8-bit value: an 8-bit register, a memory byte, a port, IMM8, F_mask (R5). -/
abbrev Byte := BitVec 8

/-- A 16-bit value: a 16-bit register, `archPC`, an address, IMM16 (R5). -/
abbrev Word := BitVec 16

/-- One instruction word, instruction and annotation together, exactly 39 bits (30_encoding R70). -/
abbrev Iword := BitVec 39

end Sys2Proof
end

