-- ==== Sys2Proof/Config.lean ====
section
/-! DEFINITION. The parameters of spec/00_scope.md R6 and the free values of R12. A parameter that the spec gives a
default is a field of `Params`, held in State and changed by no step. A value the spec leaves unspecified is an
`opaque` constant without a body, so no proof can lean on what it is. -/

namespace Sys2Proof.Config

/-- The readings of PV_LOGIC, the P/V bit of `and`, `andi`, `or`, `ori` (41_alu_logical R121, 92 D14). -/
inductive PvLogic where
  /-- The addition overflow equation, the spec's default: it gives 0 for every AND and OR. -/
  | additionEq
  /-- The subtraction overflow equation, which R121 names as the other reading. -/
  | subtractionEq
  /-- Any other function of the operands and the result: the free value `pvLogicOther`. -/
  | other
deriving DecidableEq, Repr

/-- LAYOUT (30_encoding R72, 92 D1): the position of bit 0 of each field in the 39-bit word. A field is contiguous, most
significant bit first, and has one position in all the formats that hold it. -/
structure Layout where
  pcDisp : Nat
  fMask : Nat
  eoi : Nat
  op : Nat
  rd : Nat
  rs : Nat
  rt : Nat
  imm8 : Nat
  imm16 : Nat
deriving DecidableEq, Repr

/-- What MEMMAP places at an address (R6; 20_memory R52, R59). -/
inductive MemKind where
  /-- Plain read-write memory. -/
  | ram
  /-- Memory that a store does not change. -/
  | rom
  /-- No memory, or a device's: a read answers any value and a store leaves nothing behind. -/
  | unmapped
deriving DecidableEq, Repr

/-- A stretch of the address space, `len` bytes from `base` on, wrapping at the top. -/
structure Region where
  base : Word
  len : Nat
  kind : MemKind
deriving DecidableEq, Repr

/-- The parameters of R6 that change what a step does. They are fixed for one machine. -/
structure Params where
  /-- LAYOUT (30_encoding R72). -/
  layout : Layout
  /-- MEMMAP (20_memory R59): the first region that holds an address says what is there; plain memory where none does. -/
  memmap : List Region
  /-- RESET_PC: `archPC` after reset (92 D30). -/
  resetPC : Word
  /-- TRAP_INT: trap location of a maskable interrupt (60_exceptions R231). -/
  trapInt : Word
  /-- TRAP_NMI: trap location of a non-maskable interrupt (60_exceptions R231). -/
  trapNmi : Word
  /-- EI_DELAY: translation groups after `EI` during which a maskable interrupt is not received (45 R200). -/
  eiDelay : Nat
  /-- PV_LOGIC (41_alu_logical R121, R122). -/
  pvLogic : PvLogic
deriving DecidableEq, Repr

/-- The defaults of R6, for a layout: a flat read-write memory, the addition equation, and the numbers of R6. -/
def Params.default (layout : Layout) : Params :=
  { layout := layout, memmap := [], resetPC := 0x0000, trapInt := 0x0038, trapNmi := 0x0066, eiDelay := 0, pvLogic := .additionEq }

/-- FREE VALUE. The k-th draw of ANY(n) (R12): an n-bit draw is its low n bits. Two draws need not be equal. -/
opaque any : Nat → BitVec 16

/-- FREE VALUE. The initial content of the memory byte at an address (20_memory R52, R61 item 2; 92 D39). -/
opaque initialByte : BitVec 16 → BitVec 8

/-- FREE VALUE. What an access that finds no memory at an address reads (20_memory R52, R59), by the number of the
access. -/
opaque openByte : Nat → BitVec 16 → BitVec 8

/-- FREE VALUE. How many Z80 bytes the translator holds or fetches ahead when nothing says so (20_memory R62: "The source
gives no prefetch depth"), by a number that advances at every step. -/
opaque prefetchDepth : Nat → Nat

/-- FREE VALUE. PV_LOGIC when it is neither of the two overflow equations. -/
opaque pvLogicOther : BitVec 16 → BitVec 16 → BitVec 16 → Bool

/-- FREE VALUE. XLATE (30_encoding R81): for the Z80 memory as the translator sees it and a Z80 address, the byte
length of the Z80 instruction there and its translation group. -/
opaque xlate : (BitVec 16 → BitVec 8) → BitVec 16 → Nat × List (BitVec 39)

end Sys2Proof.Config
end

