-- ==== Sys2Proof/Syntax.lean ====
section
/-! DEFINITION. The syntax of the instruction set: registers (spec/10_state.md R22, R23), operand classes (R31), the
annotation (spec/30_encoding.md R71) and the 39 instructions (R77), one constructor for each row of
opcode_table.json. Every constructor's first argument is the word's annotation. -/

namespace Sys2Proof

/-- The 8-bit register group with `R0` (10_state R22): the operands of class `Rx`. -/
inductive Reg8 where
  | r0 | b | t0 | c | i | d | t1 | e | r | h | t2 | l | f | t3 | a
deriving DecidableEq, Repr

/-- The 16-bit register group (10_state R23). `afS bcS deS hlS` are the shadows AF' BC' DE' HL'. -/
inductive Reg16 where
  | bc | ix | t10 | bcS | de | iy | deS | hl | sp | t32 | hlS | af | afS
deriving DecidableEq, Repr

/-- An operand of class `RRx` (10_state R31): a 16-bit register, or `R0`, which "can be used as a 16-bit register". -/
inductive OpW where
  | r0
  | reg (x : Reg16)
deriving DecidableEq, Repr

/-- An operand of class `RRRx` (10_state R31): an 8-bit register, `R0` among them, or a 16-bit register. -/
inductive OpX where
  | byte (x : Reg8)
  | word (x : Reg16)
deriving DecidableEq, Repr

/-- An `RRx` operand as a register specifier of either width. -/
def OpW.toX : OpW → OpX
  | .r0 => .byte .r0
  | .reg x => .word x

/-- Is this specifier F, or AF, which holds F (10_state R33)? -/
def OpX.holdsF : OpX → Bool
  | .byte .f => true
  | .word .af => true
  | _ => false

/-- The twelve selectors of `shiftrotate` (41_alu_logical R132). -/
inductive ShiftSel where
  | rlc | rlca | rrc | rrca | rl | rla | rr | rra | sla | sra | srl | sll
deriving DecidableEq, Repr

/-- The annotation the translator attaches to a word (30_encoding R71). -/
structure Annot where
  /-- PC_disp: how far `archPC` moves when the word is decoded, 0 to 7. -/
  pcDisp : BitVec 3
  /-- F_mask: one bit for each bit of F, S Z X H X P/V N C from bit 7 down. -/
  fMask : Byte
  /-- EOI: the last word of a translation group (R83). -/
  eoi : Bool
deriving DecidableEq, Repr

/-- The 39 instructions (30_encoding R77), in the order of opcode_table.json. Operands stand in the order of the
synopsis; their types are the classes of R79. `inp` is the row `in`. -/
inductive Instr where
  | add (an : Annot) (rd rs rt : Reg8)
  | addi (an : Annot) (rd rs : Reg8) (imm : Byte)
  | sub (an : Annot) (rd rs rt : Reg8)
  | add16 (an : Annot) (rd rs rt : OpW)
  | addi16 (an : Annot) (rd rs : OpW) (imm : Byte)
  | sub16 (an : Annot) (rd rs rt : OpW)
  | and (an : Annot) (rd rs rt : OpX)
  | andi (an : Annot) (rd rs : OpX) (imm : Byte)
  | or (an : Annot) (rd rs rt : OpX)
  | ori (an : Annot) (rd rs : OpX) (imm : Byte)
  | xor (an : Annot) (rd rs rt : OpX)
  | xori (an : Annot) (rd rs : OpX) (imm : Byte)
  | not (an : Annot) (rd rs : OpX)
  | shiftrotate (an : Annot) (rd rs : Reg8) (sel : ShiftSel)
  | get4 (an : Annot) (rd rs : Reg8) (imm : Byte)
  | merge44 (an : Annot) (rd rs rt : Reg8)
  | mvPC (an : Annot) (rd : OpW)
  | daa (an : Annot) (rd rs : Reg8)
  | getbit (an : Annot) (rd rs : Reg8) (imm : Byte)
  | ngetbit (an : Annot) (rd rs : Reg8) (imm : Byte)
  | setbit (an : Annot) (rd rs : Reg8) (imm : Byte)
  | nsetbit (an : Annot) (rd rs : Reg8) (imm : Byte)
  | limm (an : Annot) (rd : OpX) (imm : Word)
  | ei (an : Annot)
  | di (an : Annot)
  | im (an : Annot) (imm : Word)
  | subi (an : Annot) (rd rs : Reg8) (imm : Byte)
  | subi16 (an : Annot) (rd rs : OpW) (imm : Byte)
  | mvIff (an : Annot) (rd : OpX) (imm : Byte)
  | j (an : Annot) (imm : Word)
  | jr (an : Annot) (ra : OpW)
  | jc (an : Annot) (ra : OpX) (imm : Word)
  | jrc (an : Annot) (ra : OpX) (rb : OpW)
  | bne (an : Annot) (ra rb : OpX) (imm : Byte)
  | beq (an : Annot) (ra rb : OpX) (imm : Byte)
  | ld (an : Annot) (rd : Reg8) (rb : OpW) (imm : Byte)
  | st (an : Annot) (ra : Reg8) (rb : OpW) (imm : Byte)
  | inp (an : Annot) (rd rs : Reg8) (imm : Byte)
  | out (an : Annot) (ra rs : Reg8) (imm : Byte)
deriving DecidableEq, Repr

/-- The annotation of an instruction's word. -/
def Instr.annot : Instr → Annot
  | .add an _ _ _ | .addi an _ _ _ | .sub an _ _ _ | .add16 an _ _ _ | .addi16 an _ _ _ | .sub16 an _ _ _
  | .and an _ _ _ | .andi an _ _ _ | .or an _ _ _ | .ori an _ _ _ | .xor an _ _ _ | .xori an _ _ _ | .not an _ _
  | .shiftrotate an _ _ _ | .get4 an _ _ _ | .merge44 an _ _ _ | .mvPC an _ | .daa an _ _ | .getbit an _ _ _
  | .ngetbit an _ _ _ | .setbit an _ _ _ | .nsetbit an _ _ _ | .limm an _ _ | .ei an | .di an | .im an _
  | .subi an _ _ _ | .subi16 an _ _ _ | .mvIff an _ _ | .j an _ | .jr an _ | .jc an _ _ | .jrc an _ _
  | .bne an _ _ _ | .beq an _ _ _ | .ld an _ _ _ | .st an _ _ _ | .inp an _ _ _ | .out an _ _ _ => an

/-- The register an instruction writes, where it has one (the `W` and `RW` entries of 30_encoding R79). -/
def Instr.dest : Instr → Option OpX
  | .add _ rd _ _ | .addi _ rd _ _ | .sub _ rd _ _ | .subi _ rd _ _ | .shiftrotate _ rd _ _ | .get4 _ rd _ _
  | .merge44 _ rd _ _ | .daa _ rd _ | .getbit _ rd _ _ | .ngetbit _ rd _ _ | .setbit _ rd _ _ | .nsetbit _ rd _ _
  | .ld _ rd _ _ | .inp _ rd _ _ => some (.byte rd)
  | .add16 _ rd _ _ | .addi16 _ rd _ _ | .sub16 _ rd _ _ | .subi16 _ rd _ _ | .mvPC _ rd => some rd.toX
  | .and _ rd _ _ | .andi _ rd _ _ | .or _ rd _ _ | .ori _ rd _ _ | .xor _ rd _ _ | .xori _ rd _ _ | .not _ rd _
  | .limm _ rd _ | .mvIff _ rd _ => some rd
  | .ei _ | .di _ | .im _ _ | .j _ _ | .jr _ _ | .jc _ _ _ | .jrc _ _ _ | .bne _ _ _ _ | .beq _ _ _ _
  | .st _ _ _ _ | .out _ _ _ _ => none

/-- Why the decoder gives a word no instruction: the REFUSE cases of 60_exceptions R221. -/
inductive Reject where
  /-- The opcode is one of the 25 in no row of Table 6 (30_encoding R78). -/
  | reservedOpcode
  /-- A register field the instruction uses holds 01100, 10110, 11101 or 11110 (10_state R30). -/
  | unassignedRegister
  /-- A register field holds a specifier of the other width class, and not R0 (10_state R31). -/
  | operandClass
  /-- `shiftrotate` with a selector above 0x0B (41_alu_logical R132). -/
  | shiftSelector
  /-- The destination is F or AF and F_mask is not 0: F written twice (10_state R33). -/
  | flagsWrittenTwice
deriving DecidableEq, Repr

end Sys2Proof
end

