-- ==== Sys2Proof/WellFormed.lean ====
section
/-! DEFINITION. Well-formedness of an instruction. The operand classes of spec/10_state.md R30, R31 and the selectors
of 41_alu_logical R132 are in the types of Syntax.lean; what is left is one check over two fields. Well-formedness of a LAYOUT. -/

namespace Sys2Proof

/-- The instruction writes F once at most: its destination is not F or AF, or its F_mask is 0 (10_state R33). -/
def Instr.writesFOnce (i : Instr) : Bool :=
  match i.dest with
  | some d => !(d.holdsF && i.annot.fMask != 0)
  | none => true

/-- An instruction the spec gives a meaning. -/
def Instr.wellFormed (i : Instr) : Bool := i.writesFOnce

/-- The fields that a word of format RRR holds: position and width (30_encoding R71, R73). -/
def Config.Layout.rrr (y : Config.Layout) : List (Nat × Nat) :=
  [(y.pcDisp, 3), (y.fMask, 8), (y.eoi, 1), (y.op, 6), (y.rd, 5), (y.rs, 5), (y.rt, 5)]

/-- The fields of format RRI. -/
def Config.Layout.rri (y : Config.Layout) : List (Nat × Nat) :=
  [(y.pcDisp, 3), (y.fMask, 8), (y.eoi, 1), (y.op, 6), (y.rd, 5), (y.rs, 5), (y.imm8, 8)]

/-- The fields of format RI. -/
def Config.Layout.ri (y : Config.Layout) : List (Nat × Nat) :=
  [(y.pcDisp, 3), (y.fMask, 8), (y.eoi, 1), (y.op, 6), (y.rd, 5), (y.imm16, 16)]

/-- The fields lie within the 39 bits and no two share a bit. -/
def separate : List (Nat × Nat) → Bool
  | [] => true
  | (k, n) :: fs => decide (k + n ≤ 39) && fs.all (fun f => decide (k + n ≤ f.1 ∨ f.1 + f.2 ≤ k)) && separate fs

/-- A layout that gives every format a place for each of its fields (30_encoding R72, R73). -/
def Config.Layout.wellFormed (y : Config.Layout) : Bool := separate y.rrr && separate y.rri && separate y.ri

end Sys2Proof
end

