-- ==== Sys2Proof/Decode.lean ====
section
/-! DEFINITION. Decoding and encoding of instruction words. The bit positions are an argument, LAYOUT
(spec/30_encoding.md R72); its default stands in `layoutR72` and nowhere else. -/

namespace Sys2Proof

/-- The fields of an instruction word (30_encoding R71). -/
structure Fields where
  an : Annot
  op : BitVec 6
  rd : BitVec 5
  rs : BitVec 5
  rt : BitVec 5
  imm8 : Byte
  imm16 : Word
deriving DecidableEq, Repr

/-- LAYOUT as 30_encoding R72 has it, the spec's own choice (92 D1), which is the default (00_scope R6). -/
def layoutR72 : Config.Layout :=
  { pcDisp := 36, fMask := 28, eoi := 27, op := 21, rd := 16, rs := 11, rt := 6, imm8 := 0, imm16 := 0 }

/-- The fields of a word in a layout (30_encoding R71). -/
def fieldsOf (y : Config.Layout) (w : Iword) : Fields :=
  { an := { pcDisp := w.extractLsb' y.pcDisp 3, fMask := w.extractLsb' y.fMask 8, eoi := w.getLsbD y.eoi }
    op := w.extractLsb' y.op 6
    rd := w.extractLsb' y.rd 5
    rs := w.extractLsb' y.rs 5
    rt := w.extractLsb' y.rt 5
    imm8 := w.extractLsb' y.imm8 8
    imm16 := w.extractLsb' y.imm16 16 }

/-- The register a specifier names (10_state R22, R23); none for the four unassigned ones (R30). -/
def regOfSpec (s : BitVec 5) : Option OpX :=
  match s.toNat with
  | 0 => some (.byte .r0)
  | 1 => some (.byte .b)
  | 2 => some (.byte .t0)
  | 3 => some (.byte .c)
  | 4 => some (.byte .i)
  | 5 => some (.byte .d)
  | 6 => some (.byte .t1)
  | 7 => some (.byte .e)
  | 8 => some (.byte .r)
  | 9 => some (.byte .h)
  | 10 => some (.byte .t2)
  | 11 => some (.byte .l)
  | 13 => some (.byte .f)
  | 14 => some (.byte .t3)
  | 15 => some (.byte .a)
  | 16 => some (.word .bc)
  | 17 => some (.word .ix)
  | 18 => some (.word .t10)
  | 19 => some (.word .bcS)
  | 20 => some (.word .de)
  | 21 => some (.word .iy)
  | 23 => some (.word .deS)
  | 24 => some (.word .hl)
  | 25 => some (.word .sp)
  | 26 => some (.word .t32)
  | 27 => some (.word .hlS)
  | 28 => some (.word .af)
  | 31 => some (.word .afS)
  | _ => none

/-- The specifier of an 8-bit register (10_state R22). -/
def Reg8.spec : Reg8 → BitVec 5
  | .r0 => 0 | .b => 1 | .t0 => 2 | .c => 3 | .i => 4 | .d => 5 | .t1 => 6 | .e => 7
  | .r => 8 | .h => 9 | .t2 => 10 | .l => 11 | .f => 13 | .t3 => 14 | .a => 15

/-- The specifier of a 16-bit register (10_state R23). -/
def Reg16.spec : Reg16 → BitVec 5
  | .bc => 16 | .ix => 17 | .t10 => 18 | .bcS => 19 | .de => 20 | .iy => 21 | .deS => 23
  | .hl => 24 | .sp => 25 | .t32 => 26 | .hlS => 27 | .af => 28 | .afS => 31

/-- The specifier of an `RRRx` operand. -/
def OpX.spec : OpX → BitVec 5
  | .byte x => x.spec
  | .word x => x.spec

/-- The specifier of an `RRx` operand. -/
def OpW.spec (o : OpW) : BitVec 5 := o.toX.spec

/-- A register field of class `RRRx` (10_state R30, R31). -/
def fieldX (s : BitVec 5) : Except Reject OpX :=
  match regOfSpec s with
  | some x => .ok x
  | none => .error .unassignedRegister

/-- A register field of class `Rx` (10_state R30, R31). -/
def field8 (s : BitVec 5) : Except Reject Reg8 :=
  match regOfSpec s with
  | some (.byte x) => .ok x
  | some (.word _) => .error .operandClass
  | none => .error .unassignedRegister

/-- A register field of class `RRx` (10_state R30, R31): R0 is legal in it. -/
def fieldW (s : BitVec 5) : Except Reject OpW :=
  match regOfSpec s with
  | some (.word x) => .ok (.reg x)
  | some (.byte .r0) => .ok .r0
  | some (.byte _) => .error .operandClass
  | none => .error .unassignedRegister

/-- The selector of `shiftrotate`, carried in IMM8 (41_alu_logical R132). -/
def shiftSelOf (imm : Byte) : Except Reject ShiftSel :=
  match imm.toNat with
  | 0x00 => .ok .rlc
  | 0x01 => .ok .rlca
  | 0x02 => .ok .rrc
  | 0x03 => .ok .rrca
  | 0x04 => .ok .rl
  | 0x05 => .ok .rla
  | 0x06 => .ok .rr
  | 0x07 => .ok .rra
  | 0x08 => .ok .sla
  | 0x09 => .ok .sra
  | 0x0A => .ok .srl
  | 0x0B => .ok .sll
  | _ => .error .shiftSelector

/-- The IMM8 of a selector (41_alu_logical R132). -/
def ShiftSel.code : ShiftSel → Byte
  | .rlc => 0x00 | .rlca => 0x01 | .rrc => 0x02 | .rrca => 0x03 | .rl => 0x04 | .rla => 0x05
  | .rr => 0x06 | .rra => 0x07 | .sla => 0x08 | .sra => 0x09 | .srl => 0x0A | .sll => 0x0B

/-- The instruction of the fields, by OP alone (30_encoding R77), with the fields R79 says it uses. Fields it does not
use are ignored (R76). Where several REFUSE cases apply to one word the spec names no order; DESIGN CHOICE (log 39): the
reason is that of the first field refused, in the order Rd, Rs, Rt or selector, and F written twice comes last. -/
def instrOf (x : Fields) : Except Reject Instr :=
  match x.op.toNat with
  | 0x00 => do return .add x.an (← field8 x.rd) (← field8 x.rs) (← field8 x.rt)
  | 0x01 => do return .addi x.an (← field8 x.rd) (← field8 x.rs) x.imm8
  | 0x02 => do return .sub x.an (← field8 x.rd) (← field8 x.rs) (← field8 x.rt)
  | 0x03 => do return .add16 x.an (← fieldW x.rd) (← fieldW x.rs) (← fieldW x.rt)
  | 0x04 => do return .addi16 x.an (← fieldW x.rd) (← fieldW x.rs) x.imm8
  | 0x05 => do return .sub16 x.an (← fieldW x.rd) (← fieldW x.rs) (← fieldW x.rt)
  | 0x06 => do return .and x.an (← fieldX x.rd) (← fieldX x.rs) (← fieldX x.rt)
  | 0x07 => do return .andi x.an (← fieldX x.rd) (← fieldX x.rs) x.imm8
  | 0x08 => do return .or x.an (← fieldX x.rd) (← fieldX x.rs) (← fieldX x.rt)
  | 0x09 => do return .ori x.an (← fieldX x.rd) (← fieldX x.rs) x.imm8
  | 0x0A => do return .xor x.an (← fieldX x.rd) (← fieldX x.rs) (← fieldX x.rt)
  | 0x0B => do return .xori x.an (← fieldX x.rd) (← fieldX x.rs) x.imm8
  | 0x0C => do return .not x.an (← fieldX x.rd) (← fieldX x.rs)
  | 0x0D => do return .shiftrotate x.an (← field8 x.rd) (← field8 x.rs) (← shiftSelOf x.imm8)
  | 0x0E => do return .get4 x.an (← field8 x.rd) (← field8 x.rs) x.imm8
  | 0x0F => do return .merge44 x.an (← field8 x.rd) (← field8 x.rs) (← field8 x.rt)
  | 0x10 => do return .mvPC x.an (← fieldW x.rd)
  | 0x11 => do return .daa x.an (← field8 x.rd) (← field8 x.rs)
  | 0x12 => do return .getbit x.an (← field8 x.rd) (← field8 x.rs) x.imm8
  | 0x13 => do return .ngetbit x.an (← field8 x.rd) (← field8 x.rs) x.imm8
  | 0x14 => do return .setbit x.an (← field8 x.rd) (← field8 x.rs) x.imm8
  | 0x15 => do return .nsetbit x.an (← field8 x.rd) (← field8 x.rs) x.imm8
  | 0x16 => do return .limm x.an (← fieldX x.rd) x.imm16
  | 0x17 => .ok (.ei x.an)
  | 0x18 => .ok (.di x.an)
  | 0x19 => .ok (.im x.an x.imm16)
  | 0x1A => do return .subi x.an (← field8 x.rd) (← field8 x.rs) x.imm8
  | 0x1B => do return .subi16 x.an (← fieldW x.rd) (← fieldW x.rs) x.imm8
  | 0x1C => do return .mvIff x.an (← fieldX x.rd) x.imm8
  | 0x20 => .ok (.j x.an x.imm16)
  | 0x21 => do return .jr x.an (← fieldW x.rd)
  | 0x22 => do return .jc x.an (← fieldX x.rd) x.imm16
  | 0x23 => do return .jrc x.an (← fieldX x.rd) (← fieldW x.rs)
  | 0x24 => do return .bne x.an (← fieldX x.rd) (← fieldX x.rs) x.imm8
  | 0x25 => do return .beq x.an (← fieldX x.rd) (← fieldX x.rs) x.imm8
  | 0x30 => do return .ld x.an (← field8 x.rd) (← fieldW x.rs) x.imm8
  | 0x31 => do return .st x.an (← field8 x.rd) (← fieldW x.rs) x.imm8
  | 0x32 => do return .inp x.an (← field8 x.rd) (← field8 x.rs) x.imm8
  | 0x33 => do return .out x.an (← field8 x.rd) (← field8 x.rs) x.imm8
  | _ => .error .reservedOpcode

/-- The check of 30_encoding R80 step 3 over the annotation and the destination (10_state R33). -/
def checked (i : Instr) : Except Reject Instr :=
  if i.wellFormed then .ok i else .error .flagsWrittenTwice

/-- Decode one instruction word (30_encoding R80 steps 1 and 3). -/
def decode (y : Config.Layout) (w : Iword) : Except Reject Instr :=
  match instrOf (fieldsOf y w) with
  | .ok i => checked i
  | .error e => .error e

/-- A word that is 0 but for a field at position `k`. -/
def placed {n : Nat} (k : Nat) (x : BitVec n) : Iword := x.setWidth 39 <<< k

/-- The annotation and the opcode (30_encoding R71). -/
def wordHead (y : Config.Layout) (an : Annot) (op : BitVec 6) : Iword :=
  placed y.pcDisp an.pcDisp ||| placed y.fMask an.fMask ||| placed y.eoi (BitVec.ofBool an.eoi) ||| placed y.op op

/-- A word of format RRR, unused bits 0 (30_encoding R73). -/
def wordRRR (y : Config.Layout) (an : Annot) (op : BitVec 6) (rd rs rt : BitVec 5) : Iword :=
  wordHead y an op ||| placed y.rd rd ||| placed y.rs rs ||| placed y.rt rt

/-- A word of format RRI, unused bits 0 (30_encoding R73). -/
def wordRRI (y : Config.Layout) (an : Annot) (op : BitVec 6) (rd rs : BitVec 5) (imm : Byte) : Iword :=
  wordHead y an op ||| placed y.rd rd ||| placed y.rs rs ||| placed y.imm8 imm

/-- A word of format RI (30_encoding R73). -/
def wordRI (y : Config.Layout) (an : Annot) (op : BitVec 6) (rd : BitVec 5) (imm : Word) : Iword :=
  wordHead y an op ||| placed y.rd rd ||| placed y.imm16 imm

/-- The word of an instruction, every unused bit and field 0 (30_encoding R77, R79, R76). -/
def encode (y : Config.Layout) : Instr → Iword
  | .add an rd rs rt => wordRRR y an 0x00 rd.spec rs.spec rt.spec
  | .addi an rd rs imm => wordRRI y an 0x01 rd.spec rs.spec imm
  | .sub an rd rs rt => wordRRR y an 0x02 rd.spec rs.spec rt.spec
  | .add16 an rd rs rt => wordRRR y an 0x03 rd.spec rs.spec rt.spec
  | .addi16 an rd rs imm => wordRRI y an 0x04 rd.spec rs.spec imm
  | .sub16 an rd rs rt => wordRRR y an 0x05 rd.spec rs.spec rt.spec
  | .and an rd rs rt => wordRRR y an 0x06 rd.spec rs.spec rt.spec
  | .andi an rd rs imm => wordRRI y an 0x07 rd.spec rs.spec imm
  | .or an rd rs rt => wordRRR y an 0x08 rd.spec rs.spec rt.spec
  | .ori an rd rs imm => wordRRI y an 0x09 rd.spec rs.spec imm
  | .xor an rd rs rt => wordRRR y an 0x0A rd.spec rs.spec rt.spec
  | .xori an rd rs imm => wordRRI y an 0x0B rd.spec rs.spec imm
  | .not an rd rs => wordRRI y an 0x0C rd.spec rs.spec 0
  | .shiftrotate an rd rs sel => wordRRI y an 0x0D rd.spec rs.spec sel.code
  | .get4 an rd rs imm => wordRRI y an 0x0E rd.spec rs.spec imm
  | .merge44 an rd rs rt => wordRRR y an 0x0F rd.spec rs.spec rt.spec
  | .mvPC an rd => wordRRI y an 0x10 rd.spec 0 0
  | .daa an rd rs => wordRRI y an 0x11 rd.spec rs.spec 0
  | .getbit an rd rs imm => wordRRI y an 0x12 rd.spec rs.spec imm
  | .ngetbit an rd rs imm => wordRRI y an 0x13 rd.spec rs.spec imm
  | .setbit an rd rs imm => wordRRI y an 0x14 rd.spec rs.spec imm
  | .nsetbit an rd rs imm => wordRRI y an 0x15 rd.spec rs.spec imm
  | .limm an rd imm => wordRI y an 0x16 rd.spec imm
  | .ei an => wordRRR y an 0x17 0 0 0
  | .di an => wordRRR y an 0x18 0 0 0
  | .im an imm => wordRI y an 0x19 0 imm
  | .subi an rd rs imm => wordRRI y an 0x1A rd.spec rs.spec imm
  | .subi16 an rd rs imm => wordRRI y an 0x1B rd.spec rs.spec imm
  | .mvIff an rd imm => wordRRI y an 0x1C rd.spec 0 imm
  | .j an imm => wordRI y an 0x20 0 imm
  | .jr an ra => wordRI y an 0x21 ra.spec 0
  | .jc an ra imm => wordRI y an 0x22 ra.spec imm
  | .jrc an ra rb => wordRRI y an 0x23 ra.spec rb.spec 0
  | .bne an ra rb imm => wordRRI y an 0x24 ra.spec rb.spec imm
  | .beq an ra rb imm => wordRRI y an 0x25 ra.spec rb.spec imm
  | .ld an rd rb imm => wordRRI y an 0x30 rd.spec rb.spec imm
  | .st an ra rb imm => wordRRI y an 0x31 ra.spec rb.spec imm
  | .inp an rd rs imm => wordRRI y an 0x32 rd.spec rs.spec imm
  | .out an ra rs imm => wordRRI y an 0x33 ra.spec rs.spec imm

/-- The empty-queue filler: `add R0, R0, R0` with PC_disp 0, F_mask 0 and EOI 1 (30_encoding R82). -/
def fillerWord (y : Config.Layout) : Iword := encode y (.add { pcDisp := 0, fMask := 0, eoi := true } .r0 .r0 .r0)

/-- The instruction word whose bits are `w`, of which `nbits` are given and the rest are 0. An instruction word has
exactly 39 bits (R70), so a number with a higher bit set is none. -/
def iwordOf (nbits w : Nat) : Option Iword :=
  if w % 2 ^ nbits < 2 ^ 39 then some (BitVec.ofNat 39 (w % 2 ^ nbits)) else none

/-- The instruction the decoder reads from an instruction whose bits are `w`, numbered as opcode_table.json does,
in the layout of that table. -/
def decodeTableWord (nbits w : Nat) : Option Instr :=
  match iwordOf nbits w with
  | some x => (decode layoutR72 x).toOption
  | none => none

end Sys2Proof
end

