-- ==== Sys2Proof/Machine/State.lean ====
section
/-! DEFINITION. The state of the machine (spec/10_state.md R20, R40), the outcomes of a step that stop it, and reset. -/

namespace Sys2Proof.Machine

/-- The storage cells of the register file (10_state R20, R22, R23). R0 and the pair views have no cell. -/
structure Regs where
  b : Byte
  c : Byte
  d : Byte
  e : Byte
  h : Byte
  l : Byte
  a : Byte
  /-- The condition code vector S Z X H X P/V N C (R32). -/
  f : Byte
  i : Byte
  r : Byte
  t0 : Byte
  t1 : Byte
  t2 : Byte
  t3 : Byte
  ix : Word
  iy : Word
  sp : Word
  /-- The shadows AF' BC' DE' HL' (R42). -/
  afS : Word
  bcS : Word
  deS : Word
  hlS : Word
deriving DecidableEq, Repr

/-- The two interrupt kinds (60_exceptions R222). -/
inductive Irq where
  | int
  | nmi
deriving DecidableEq, Repr

/-- A recorded I/O event (20_memory R55). -/
inductive IoEvent where
  /-- `IORead(port)` answered `data`. -/
  | read (port data : Byte)
  /-- `IOWrite(port, data)`. -/
  | write (port data : Byte)
deriving DecidableEq, Repr

/-- One entry of an XLATE table: the Z80 address, the byte length and the translation group (30_encoding R81). -/
structure XEntry where
  addr : Word
  len : Nat
  group : List Iword
deriving DecidableEq, Repr

/-- What the environment and the translator do before one step of the core. -/
structure Tick where
  /-- RST is 1 at this step: the reset routine runs instead of an instruction (70_reset R260). -/
  rst : Bool
  /-- The level of the maskable request input (60_exceptions R222). -/
  intReq : Bool
  /-- The level of the non-maskable request input (60_exceptions R222). -/
  nmiReq : Bool
  /-- Reception happens before this step (60_exceptions R226: at any step boundary, never forced). -/
  receive : Bool
  /-- How many Z80 bytes from `fetchPC` on the translator holds or fetches ahead now (20_memory R62). -/
  prefetch : Nat
  /-- How many translation groups the translator appends to the queue now (30_encoding R81). -/
  translate : Nat
deriving DecidableEq, Repr

/-- The whole machine: the core (10_state R20), what it reads and writes outside itself, the parameters, and the
model's own script, answers, log and draw counter. INVENTORY.md names the rule of each field. -/
structure State where
  regs : Regs
  /-- The architected 16-bit program counter, a Z80 byte address (R35). -/
  archPC : Word
  iff1 : Bool
  iff2 : Bool
  /-- The received interrupt the core holds until the next window (R40). -/
  pend : Option Irq
  /-- `ei_hold`: windows left before a maskable interrupt may be received after `EI` (R40). -/
  eiHold : Nat
  /-- Data memory: (address, byte), addresses strictly rising; an unlisted address holds no stored byte. -/
  mem : List Host.Cell
  /-- The translator's fetch address (R40). -/
  fetchPC : Word
  /-- The instruction queue, next word first (R40). -/
  queue : List Iword
  /-- Z80 bytes fetched ahead and not yet translated, in the form of `mem` (R40, 20_memory R62). -/
  prefetched : List Host.Cell
  intReq : Bool
  nmiReq : Bool
  /-- The parameters of 00_scope R6; no step changes them. -/
  cfg : Config.Params
  /-- XLATE as far as it is given as data; no step changes it. -/
  xlateTable : List XEntry
  /-- The model's own: the bytes the devices answer to the coming I/O reads. -/
  portAnswers : List Byte
  /-- The model's own: the I/O events so far, oldest first. -/
  ioLog : List IoEvent
  /-- The model's own: what the environment does before the coming steps. -/
  script : List Tick
  /-- The model's own: the number of the next draw of ANY. -/
  draws : Nat
deriving DecidableEq, Repr

/-- Why the machine stops with a fault: never. The hardware raises no synchronous exception and has no fault
mechanism (60_exceptions R220, 93 part 1), so this type has no constructor. SAFE: it claims no stop. -/
inductive Fault where
deriving DecidableEq, Repr

/-- Why a step has no meaning. -/
inductive Refusal where
  /-- Raised by an arm of `exec` for an instruction without a meaning yet. No arm raises it. SAFE: it only stops. -/
  | notModelled (mnemonic : String)
  /-- Raised by `step` for a word the decoder rejects, which the spec gives no meaning (60_exceptions R221). SAFE: what
  the silicon does with it is unknown, and a proof can claim nothing past it. -/
  | badWord (why : Reject)
  /-- Raised by the meaning of an instruction that names F or AF as its destination while F_mask is not 0
  (10_state R33: REFUSE). No decoded instruction does. SAFE: it only stops. -/
  | flagsWrittenTwice
deriving DecidableEq, Repr

/-- The general registers after reset. The spec leaves them unspecified (10_state R41); DESIGN CHOICE: zero (log 2). -/
def Regs.zero : Regs :=
  { b := 0, c := 0, d := 0, e := 0, h := 0, l := 0, a := 0, f := 0, i := 0, r := 0, t0 := 0, t1 := 0, t2 := 0, t3 := 0,
    ix := 0, iy := 0, sp := 0, afS := 0, bcS := 0, deS := 0, hlS := 0 }

/-- The parameters at their defaults (00_scope R6). -/
def defaultParams : Config.Params := Config.Params.default layoutR72

/-- The machine right after reset with the default parameters (10_state R41, 70_reset R261). -/
def State.reset : State :=
  { regs := Regs.zero
    archPC := defaultParams.resetPC
    iff1 := false
    iff2 := false
    pend := none
    eiHold := 0
    mem := []
    fetchPC := defaultParams.resetPC
    queue := []
    prefetched := []
    intReq := false
    nmiReq := false
    cfg := defaultParams
    xlateTable := []
    portAnswers := []
    ioLog := []
    script := []
    draws := 0 }

end Sys2Proof.Machine
end

