-- ==== Sys2Proof/Machine/Operands.lean ====
section
/-! DEFINITION. Operand forms: reading and writing the register file (spec/10_state.md R24 to R29), the immediates
(30_encoding R75) and the effective addresses (44_load_store R190, 46_io R210). -/

namespace Sys2Proof.Machine

/-- `sext_16` (00_scope R9). -/
def sext16 (v : Byte) : Word := v.signExtend 16

/-- `zext_16` (00_scope R9). -/
def zext16 (v : Byte) : Word := v.setWidth 16

/-- Bits 7:0 of a 16-bit value. -/
def lo8 (v : Word) : Byte := v.extractLsb' 0 8

/-- Bits 15:8 of a 16-bit value. -/
def hi8 (v : Word) : Byte := v.extractLsb' 8 8

/-- `{x, y}` for two bytes: `x` is bits 15:8 (00_scope R8). -/
def pair (x y : Byte) : Word := x ++ y

/-- `r8[s]`, with 0 for R0 (10_state R24, R27). -/
def Regs.read8 (g : Regs) : Reg8 → Byte
  | .r0 => 0
  | .b => g.b
  | .t0 => g.t0
  | .c => g.c
  | .i => g.i
  | .d => g.d
  | .t1 => g.t1
  | .e => g.e
  | .r => g.r
  | .h => g.h
  | .t2 => g.t2
  | .l => g.l
  | .f => g.f
  | .t3 => g.t3
  | .a => g.a

/-- `r16[s]`: a pair view reads its two halves, the first name in bits 15:8 (10_state R25). -/
def Regs.read16 (g : Regs) : Reg16 → Word
  | .bc => pair g.b g.c
  | .ix => g.ix
  | .t10 => pair g.t1 g.t0
  | .bcS => g.bcS
  | .de => pair g.d g.e
  | .iy => g.iy
  | .deS => g.deS
  | .hl => pair g.h g.l
  | .sp => g.sp
  | .t32 => pair g.t3 g.t2
  | .hlS => g.hlS
  | .af => pair g.a g.f
  | .afS => g.afS

/-- `r8[s] <- v`; a write to R0 is dropped (10_state R27, R29). -/
def Regs.write8 (g : Regs) (x : Reg8) (v : Byte) : Regs :=
  match x with
  | .r0 => g
  | .b => { g with b := v }
  | .t0 => { g with t0 := v }
  | .c => { g with c := v }
  | .i => { g with i := v }
  | .d => { g with d := v }
  | .t1 => { g with t1 := v }
  | .e => { g with e := v }
  | .r => { g with r := v }
  | .h => { g with h := v }
  | .t2 => { g with t2 := v }
  | .l => { g with l := v }
  | .f => { g with f := v }
  | .t3 => { g with t3 := v }
  | .a => { g with a := v }

/-- `r16[s] <- v`, through the alias when `s` is a pair view (10_state R26, R29). -/
def Regs.write16 (g : Regs) (x : Reg16) (v : Word) : Regs :=
  match x with
  | .bc => { g with b := hi8 v, c := lo8 v }
  | .ix => { g with ix := v }
  | .t10 => { g with t1 := hi8 v, t0 := lo8 v }
  | .bcS => { g with bcS := v }
  | .de => { g with d := hi8 v, e := lo8 v }
  | .iy => { g with iy := v }
  | .deS => { g with deS := v }
  | .hl => { g with h := hi8 v, l := lo8 v }
  | .sp => { g with sp := v }
  | .t32 => { g with t3 := hi8 v, t2 := lo8 v }
  | .hlS => { g with hlS := v }
  | .af => { g with a := hi8 v, f := lo8 v }
  | .afS => { g with afS := v }

/-- `val16(s)`: an 8-bit register is sign-extended (10_state R28). -/
def Regs.val16 (g : Regs) : OpX → Word
  | .byte x => sext16 (g.read8 x)
  | .word x => g.read16 x

/-- `reg[s] <- v`: all 16 bits, or bits 7:0 into an 8-bit register, or nothing into R0 (10_state R29). -/
def Regs.write (g : Regs) (o : OpX) (v : Word) : Regs :=
  match o with
  | .byte x => g.write8 x (lo8 v)
  | .word x => g.write16 x v

/-- The value of an `Rx` operand (10_state R28). -/
def State.val8 (s : State) (r : Reg8) : Byte := s.regs.read8 r

/-- The value of an `RRx` operand: `r16[s]`, or 0x0000 from R0 (10_state R27, R28). -/
def State.valW (s : State) : OpW → Word
  | .r0 => 0
  | .reg x => s.regs.read16 x

/-- The value of an `RRRx` operand (10_state R28). -/
def State.valX (s : State) (o : OpX) : Word := s.regs.val16 o

/-- `reg[s] <- v` for an `Rx` destination and an 8-bit result (10_state R29). -/
def State.putByte (s : State) (r : Reg8) (v : Byte) : State := { s with regs := s.regs.write8 r v }

/-- `reg[s] <- v` for a destination of any class and a 16-bit result (10_state R29). -/
def State.putReg (s : State) (o : OpX) (v : Word) : State := { s with regs := s.regs.write o v }

/-- The effective address of `ld` and `st` (44_load_store R190), modulo 65536 (20_memory R53). -/
def State.dataAddr (s : State) (rb : OpW) (imm : Byte) : Word := s.valW rb + sext16 imm

/-- The port number of `in` and `out`, modulo 256 (46_io R210). -/
def State.portNum (s : State) (rb : Reg8) (imm : Byte) : Byte := s.val8 rb + imm

/-- The target of `bne` and `beq`, from the `archPC` that already holds this word's PC_disp (43 R175). -/
def State.branchTarget (s : State) (imm : Byte) : Word := s.archPC + sext16 imm

end Sys2Proof.Machine
end

