-- ==== Sys2Proof/Machine/Flags.lean ====
section
/-! DEFINITION. Flag generation, one function for each row of the source's Table 5, and the merge under F_mask
(spec/10_state.md R32 to R34). -/

namespace Sys2Proof.Machine

/-- `gen = (S, Z, H, PV, N, C)`; `none` is `dc`, a flag the instruction does not generate (10_state R33). -/
structure Gen where
  s : Option Bool
  z : Option Bool
  h : Option Bool
  pv : Option Bool
  n : Option Bool
  c : Option Bool
deriving DecidableEq, Repr

/-- Flags "none": all six `dc` (10_state R33, R34). -/
def Gen.dc : Gen := { s := none, z := none, h := none, pv := none, n := none, c := none }

/-- A byte from its bits, bit 7 first. -/
def packByte (b7 b6 b5 b4 b3 b2 b1 b0 : Bool) : Byte :=
  BitVec.ofBool b7 ++ BitVec.ofBool b6 ++ BitVec.ofBool b5 ++ BitVec.ofBool b4 ++ BitVec.ofBool b3 ++ BitVec.ofBool b2
    ++ BitVec.ofBool b1 ++ BitVec.ofBool b0

/-- One F bit under its mask bit: the generated value, or the drawn one for `dc`, where the mask is 1; else the old
value (10_state R33). -/
def flagBit (mask : Bool) (gen : Option Bool) (drawn old : Bool) : Bool :=
  if mask then gen.getD drawn else old

/-- F after `SetFlags(F_mask, gen)`; bits 5 and 3 have no generated value (10_state R33). -/
def mergeFlags (fm : Byte) (g : Gen) (drawn old : Byte) : Byte :=
  packByte
    (flagBit (fm.getLsbD 7) g.s (drawn.getLsbD 7) (old.getLsbD 7))
    (flagBit (fm.getLsbD 6) g.z (drawn.getLsbD 6) (old.getLsbD 6))
    (flagBit (fm.getLsbD 5) none (drawn.getLsbD 5) (old.getLsbD 5))
    (flagBit (fm.getLsbD 4) g.h (drawn.getLsbD 4) (old.getLsbD 4))
    (flagBit (fm.getLsbD 3) none (drawn.getLsbD 3) (old.getLsbD 3))
    (flagBit (fm.getLsbD 2) g.pv (drawn.getLsbD 2) (old.getLsbD 2))
    (flagBit (fm.getLsbD 1) g.n (drawn.getLsbD 1) (old.getLsbD 1))
    (flagBit (fm.getLsbD 0) g.c (drawn.getLsbD 0) (old.getLsbD 0))

/-- Does the mask select a bit that `gen` leaves open, so that a draw of ANY is needed (10_state R33)? -/
def needsDraw (fm : Byte) (g : Gen) : Bool :=
  (fm.getLsbD 7 && g.s.isNone) || (fm.getLsbD 6 && g.z.isNone) || fm.getLsbD 5 || (fm.getLsbD 4 && g.h.isNone)
    || fm.getLsbD 3 || (fm.getLsbD 2 && g.pv.isNone) || (fm.getLsbD 1 && g.n.isNone) || (fm.getLsbD 0 && g.c.isNone)

/-- F.C, the implicit input of `shiftrotate` and `DAA` (10_state R32). -/
def State.flagC (s : State) : Bool := s.regs.f.getLsbD 0

/-- F.N, an implicit input of `DAA` (10_state R32). -/
def State.flagN (s : State) : Bool := s.regs.f.getLsbD 1

/-- F.H, an implicit input of `DAA` (10_state R32). -/
def State.flagH (s : State) : Bool := s.regs.f.getLsbD 4

/-- `parity8`: an even number of 1 bits (00_scope R11). -/
def parity8 (v : Byte) : Bool :=
  !(v.getLsbD 7 ^^ v.getLsbD 6 ^^ v.getLsbD 5 ^^ v.getLsbD 4 ^^ v.getLsbD 3 ^^ v.getLsbD 2 ^^ v.getLsbD 1 ^^ v.getLsbD 0)

/-- Flags "standard", ADD column, for `w`-bit operands whose half carry leaves the low `half` bits: R101 with `half` 4,
R102 with `half` 12. Sums are exact naturals. -/
def addFlags {w : Nat} (half : Nat) (a b : BitVec w) : Gen :=
  { s := some (a + b).msb
    z := some (a + b == 0)
    h := some (decide (2 ^ half ≤ a.toNat % 2 ^ half + b.toNat % 2 ^ half))
    pv := some (a.msb == b.msb && (a + b).msb != a.msb)
    n := some false
    c := some (decide (2 ^ w ≤ a.toNat + b.toNat)) }

/-- Flags "standard", SUB column: R101 with `half` 4, R102 with `half` 12. The 16-bit carry is the borrow from bit 16
(90 C1). -/
def subFlags {w : Nat} (half : Nat) (a b : BitVec w) : Gen :=
  { s := some (a - b).msb
    z := some (a - b == 0)
    h := some (decide (a.toNat % 2 ^ half < b.toNat % 2 ^ half))
    pv := some (a.msb != b.msb && (a - b).msb != a.msb)
    n := some true
    c := some (decide (a.toNat < b.toNat)) }

/-- PV_LOGIC (41_alu_logical R121, R122): the overflow equation over bit 7 that the parameter names. -/
def pvLogic (p : Config.PvLogic) (a b r : Word) : Bool :=
  match p with
  | .additionEq => a.getLsbD 7 == b.getLsbD 7 && r.getLsbD 7 != a.getLsbD 7
  | .subtractionEq => a.getLsbD 7 != b.getLsbD 7 && r.getLsbD 7 != a.getLsbD 7
  | .other => Config.pvLogicOther a b r

/-- Flags "z80 AND" (41_alu_logical R121): S and Z look at bits 7:0 of the 16-bit result. -/
def andFlags (p : Config.PvLogic) (a b r : Word) : Gen :=
  { s := some (r.getLsbD 7), z := some (lo8 r == 0), h := some true, pv := some (pvLogic p a b r),
    n := some false, c := some false }

/-- Flags "z80 OR" (41_alu_logical R122). -/
def orFlags (p : Config.PvLogic) (a b r : Word) : Gen :=
  { s := some (r.getLsbD 7), z := some (lo8 r == 0), h := some false, pv := some (pvLogic p a b r),
    n := some false, c := some false }

/-- Flags "z80 XOR" (41_alu_logical R123): the parity is over bits 7:0. -/
def xorFlags (r : Word) : Gen :=
  { s := some (r.getLsbD 7), z := some (lo8 r == 0), h := some false, pv := some (parity8 (lo8 r)),
    n := some false, c := some false }

/-- Flags "z80 CPL" (41_alu_logical R131). -/
def cplFlags : Gen := { s := none, z := none, h := some true, pv := none, n := some true, c := none }

/-- Is the selector one of RLCA, RRCA, RLA, RRA (41_alu_logical R133)? -/
def isAVariant : ShiftSel → Bool
  | .rlca | .rrca | .rla | .rra => true
  | .rlc | .rrc | .rl | .rr | .sla | .sra | .srl | .sll => false

/-- Flags of `shiftrotate` (41_alu_logical R133): the row XXXA for the A-variants, the row XXX for the others. -/
def shiftFlags (sel : ShiftSel) (r : Byte) (cout : Bool) : Gen :=
  if isAVariant sel then
    { s := none, z := none, h := some false, pv := none, n := some false, c := some cout }
  else
    { s := some (r.getLsbD 7), z := some (r == 0), h := some false, pv := some (parity8 r), n := some false,
      c := some cout }

/-- Flags "z80 RRD/RLD" (41_alu_logical R136). -/
def rldFlags (r : Byte) : Gen :=
  { s := some (r.getLsbD 7), z := some (r == 0), h := some false, pv := some (parity8 r), n := some false, c := none }

/-- Flags "z80 DAA" (42_alu_special_bit R151). -/
def daaFlags (r : Byte) (hout cout : Bool) : Gen :=
  { s := some (r.getLsbD 7), z := some (r == 0), h := some hout, pv := some (parity8 r), n := none, c := some cout }

/-- Flags "z80 bit b" (42_alu_special_bit R152). -/
def bitFlags (r : Byte) : Gen :=
  { s := none, z := some (r == 0), h := some true, pv := none, n := some false, c := none }

/-- Flags "z80 in" (46_io R212). -/
def inFlags (d : Byte) : Gen :=
  { s := some (d.getLsbD 7), z := some (d == 0), h := some false, pv := some (parity8 d), n := some false, c := none }

end Sys2Proof.Machine
end

