-- ==== Sys2Proof/Machine/Ops.lean ====
section
/-! DEFINITION. The named operations over memory, ports and control state, and what every instruction does around its
own operation: draws of ANY, SetFlags, Flush, interrupt reception, window and entry, and the common sequence of
spec/30_encoding.md R80. -/

namespace Sys2Proof.Machine

/-- The byte stored at an address of a cell list, none if it is not listed. -/
def Memory.find : List Host.Cell → Nat → Option Byte
  | [], _ => none
  | (a, v) :: m, x => if x = a then some v else Memory.find m x

/-- Store a byte at an address, keeping the addresses strictly rising. -/
def Memory.store : List Host.Cell → Nat → Byte → List Host.Cell
  | [], x, v => [(x, v)]
  | (a, u) :: m, x, v =>
    if x < a then (x, v) :: (a, u) :: m
    else if x = a then (x, v) :: m
    else (a, u) :: Memory.store m x v

/-- The canonical form: addresses strictly rising and below 65536. An unlisted address holds no stored byte, so no
entry can equal what an unlisted address holds. -/
def Memory.wf : List Host.Cell → Bool
  | [] => true
  | [(a, _)] => decide (a < 65536)
  | (a, _) :: (b, v) :: m => decide (a < b) && Memory.wf ((b, v) :: m)

/-- The content of the memory cell at an address (20_memory R52): the last byte stored, or the initial content, which is
free. -/
def State.readMem (s : State) (a : Word) : Byte := (Memory.find s.mem a.toNat).getD (Config.initialByte a)

/-- The address lies in the region, which wraps at the top of the address space. -/
def inRegion (r : Config.Region) (a : Word) : Bool := decide ((a - r.base).toNat < r.len)

/-- What MEMMAP places at an address: the kind of the first region that holds it, plain memory where none does
(00_scope R6, 20_memory R59). -/
def State.kindAt (s : State) (a : Word) : Config.MemKind :=
  match s.cfg.memmap.find? (fun r => inRegion r a) with
  | some r => r.kind
  | none => .ram

/-- `MemRead(addr, 1)` (20_memory R52): the content of RAM or ROM, any value where there is no memory (R59). -/
def State.busRead (s : State) (a : Word) : Byte :=
  match s.kindAt a with
  | .ram | .rom => s.readMem a
  | .unmapped => Config.openByte s.draws a

/-- How many draws a read at an address makes: one where there is no memory. -/
def State.openReads (s : State) (a : Word) : Nat :=
  match s.kindAt a with
  | .ram | .rom => 0
  | .unmapped => 1

/-- The cells after a store at an address: RAM takes the byte, ROM and a place without memory do not (20_memory R52, R59;
log 30). -/
def State.memAfter (s : State) (a : Word) (v : Byte) : List Host.Cell :=
  match s.kindAt a with
  | .ram => Memory.store s.mem a.toNat v
  | .rom | .unmapped => s.mem

/-- `MemWrite(addr, 1, v)` (20_memory R52). -/
def State.writeMem (s : State) (a : Word) (v : Byte) : State := { s with mem := s.memAfter a v }

/-- The draw of ANY(16) that is `k` after the next one (00_scope R12). -/
def State.anyWord (s : State) (k : Nat) : Word := Config.any (s.draws + k)

/-- The draw of ANY(8) that is `k` after the next one (00_scope R12). -/
def State.anyByte (s : State) (k : Nat) : Byte := lo8 (s.anyWord k)

/-- `k` draws have been made. -/
def State.drew (s : State) (k : Nat) : State := { s with draws := s.draws + k }

/-- `SetFlags(F_mask, gen)` (10_state R33). One drawn byte supplies the ANY(1) of each F bit that needs one. -/
def State.setFlags (s : State) (fm : Byte) (g : Gen) : State :=
  (s.putByte .f (mergeFlags fm g (s.anyByte 0) s.regs.f)).drew (if needsDraw fm g then 1 else 0)

/-- `archPC <- (archPC + PC_disp) mod 65536` (10_state R36 (a), 30_encoding R80 step 2). -/
def State.advance (s : State) (an : Annot) : State := { s with archPC := s.archPC + an.pcDisp.setWidth 16 }

/-- `Flush(target)` (43_control_transfer R170): the translator drops everything it holds and restarts at the target. -/
def State.flush (s : State) (target : Word) : State :=
  { s with archPC := target, fetchPC := target, queue := [], prefetched := [] }

/-- One push of the interrupt entry: SP down by 1, the byte at SP (60_exceptions R232). -/
def State.pushByte (s : State) (v : Byte) : State :=
  { s with regs := s.regs.write16 .sp (s.regs.sp - 1) }.writeMem (s.regs.sp - 1) v

/-- T0 to T3 become ANY(8) each (60_exceptions R232). -/
def State.scrambleTemps (s : State) : State :=
  { s with regs := { s.regs with t0 := s.anyByte 0, t1 := s.anyByte 1, t2 := s.anyByte 2, t3 := s.anyByte 3 } }.drew 4

/-- The trap location of an interrupt kind (60_exceptions R231). -/
def State.trapLocation (s : State) : Irq → Word
  | .int => s.cfg.trapInt
  | .nmi => s.cfg.trapNmi

/-- `Entry(kind)` (60_exceptions R232): taking an interrupt, the only exception this hardware has (R220). It saves
`archPC` on the stack, high byte first, and goes to the trap location. There is no operation that returns from it:
R234 gives the hardware none, a handler returns with `ld`, `addi16` and `jr`. -/
def State.interruptEntry (s : State) (k : Irq) : State :=
  { (((s.pushByte (hi8 s.archPC)).pushByte (lo8 s.archPC)).scrambleTemps.flush (s.trapLocation k)) with pend := none }

/-- Enter the held interrupt, if one is held (60_exceptions R228, first line of `window`). -/
def State.enterHeld (s : State) : State :=
  match s.pend with
  | none => s
  | some k => s.interruptEntry k

/-- `window()` (60_exceptions R228). -/
def State.window (s : State) : State := { s.enterHeld with eiHold := s.eiHold - 1 }

/-- `receive()` (60_exceptions R226). -/
def State.receive (s : State) : State :=
  match s.pend with
  | some _ => s
  | none =>
    if s.nmiReq then { s with pend := some .nmi, iff1 := false }
    else if s.intReq && s.iff1 && s.eiHold == 0 then { s with pend := some .int, iff1 := false }
    else s

/-- `IORead(port)` (20_memory R55): the device's answer, or ANY(8) where none is given. -/
def State.portData (s : State) : Byte :=
  match s.portAnswers with
  | [] => s.anyByte 0
  | d :: _ => d

/-- What `IORead(port)` leaves behind (20_memory R55): the answer is used up and the event recorded, once. -/
def State.portRead (s : State) (port : Byte) : State :=
  { s with
    portAnswers := s.portAnswers.tail
    draws := s.draws + (if s.portAnswers.isEmpty then 1 else 0)
    ioLog := s.ioLog ++ [.read port s.portData] }

/-- `IOWrite(port, v)` (20_memory R55): the event is recorded, once. -/
def State.portWrite (s : State) (port v : Byte) : State := { s with ioLog := s.ioLog ++ [.write port v] }

/-- Steps 5 to 7 of the common sequence (30_encoding R80): SetFlags, Flush if the word is a taken transfer, and the
interrupt window if it is one or has EOI. -/
def State.finish (s : State) (an : Annot) (g : Gen) (taken : Option Word) : State :=
  match taken with
  | some t => ((s.setFlags an.fMask g).flush t).window
  | none => if an.eoi then (s.setFlags an.fMask g).window else s.setFlags an.fMask g

/-- Complete an instruction that writes no register. -/
def State.retire (s : State) (an : Annot) (g : Gen) (taken : Option Word) : Host.Outcome State Fault Refusal :=
  .next (s.finish an g taken)

/-- Complete an instruction whose destination is `d` and whose own effect has led to `s`; refuse it where F would be
written twice (30_encoding R80 step 3, 10_state R33). -/
def State.retireWrite (s : State) (an : Annot) (d : OpX) (g : Gen) : Host.Outcome State Fault Refusal :=
  if d.holdsF && an.fMask != 0 then .refused .flagsWrittenTwice else .next (s.finish an g none)

/-- The general registers after a reset during a run: unspecified (10_state R41), one draw each. -/
def State.anyRegs (s : State) : Regs :=
  { b := s.anyByte 0, c := s.anyByte 1, d := s.anyByte 2, e := s.anyByte 3, h := s.anyByte 4, l := s.anyByte 5,
    a := s.anyByte 6, f := s.anyByte 7, i := s.anyByte 8, r := s.anyByte 9, t0 := s.anyByte 10, t1 := s.anyByte 11,
    t2 := s.anyByte 12, t3 := s.anyByte 13, ix := s.anyWord 14, iy := s.anyWord 15, sp := s.anyWord 16,
    afS := s.anyWord 17, bcS := s.anyWord 18, deS := s.anyWord 19, hlS := s.anyWord 20 }

/-- The reset routine (70_reset R260, R261; 10_state R41). Memory and devices are outside the core and keep what they
hold. -/
def State.resetRoutine (s : State) : State :=
  { s.drew 21 with
    regs := s.anyRegs
    archPC := s.cfg.resetPC
    iff1 := false
    iff2 := false
    pend := none
    eiHold := 0
    fetchPC := s.cfg.resetPC
    queue := []
    prefetched := [] }

end Sys2Proof.Machine
end

