-- ==== Sys2Proof/Machine/Control.lean ====
section
/-! DEFINITION. The control-transfer instructions (spec/43_control_transfer.md). All generate no flags (R177). -/

namespace Sys2Proof.Machine

/-- A transfer to `target` that is taken when `cond` holds, from the state after PC_disp (R170). -/
def State.transfer (s : State) (an : Annot) (cond : Bool) (target : Word) : Host.Outcome State Fault Refusal :=
  s.retire an Gen.dc (if cond then some target else none)

/-- `j IMM16` (R171). -/
def execJ (an : Annot) (imm : Word) (s : State) : Host.Outcome State Fault Refusal :=
  (s.advance an).transfer an true imm

/-- `jr RRa` (R172): a jump to a register, not a relative one. -/
def execJr (an : Annot) (ra : OpW) (s : State) : Host.Outcome State Fault Refusal :=
  (s.advance an).transfer an true (s.valW ra)

/-- `Jc RRRa, IMM16` (R173, R178). -/
def execJc (an : Annot) (ra : OpX) (imm : Word) (s : State) : Host.Outcome State Fault Refusal :=
  (s.advance an).transfer an (s.valX ra != 0) imm

/-- `Jrc RRRa, RRb` (R174, R178). -/
def execJrc (an : Annot) (ra : OpX) (rb : OpW) (s : State) : Host.Outcome State Fault Refusal :=
  (s.advance an).transfer an (s.valX ra != 0) (s.valW rb)

/-- `bne RRRa, RRRb, IMM8` (R175, R178): the offset is added to the `archPC` after PC_disp. -/
def execBne (an : Annot) (ra rb : OpX) (imm : Byte) (s : State) : Host.Outcome State Fault Refusal :=
  (s.advance an).transfer an (s.valX ra != s.valX rb) ((s.advance an).branchTarget imm)

/-- `beq RRRa, RRRb, IMM8` (R176, R178). -/
def execBeq (an : Annot) (ra rb : OpX) (imm : Byte) (s : State) : Host.Outcome State Fault Refusal :=
  (s.advance an).transfer an (s.valX ra == s.valX rb) ((s.advance an).branchTarget imm)

/-- The word is a taken transfer (R170 to R176); no other word ever is (60_exceptions R228). -/
def takes (i : Instr) (s : State) : Bool :=
  match i with
  | .j _ _ | .jr _ _ => true
  | .jc _ ra _ | .jrc _ ra _ => s.valX ra != 0
  | .bne _ ra rb _ => s.valX ra != s.valX rb
  | .beq _ ra rb _ => s.valX ra == s.valX rb
  | .add _ _ _ _ | .addi _ _ _ _ | .sub _ _ _ _ | .add16 _ _ _ _ | .addi16 _ _ _ _ | .sub16 _ _ _ _ | .and _ _ _ _
  | .andi _ _ _ _ | .or _ _ _ _ | .ori _ _ _ _ | .xor _ _ _ _ | .xori _ _ _ _ | .not _ _ _ | .shiftrotate _ _ _ _
  | .get4 _ _ _ _ | .merge44 _ _ _ _ | .mvPC _ _ | .daa _ _ _ | .getbit _ _ _ _ | .ngetbit _ _ _ _ | .setbit _ _ _ _
  | .nsetbit _ _ _ _ | .limm _ _ _ | .ei _ | .di _ | .im _ _ | .subi _ _ _ _ | .subi16 _ _ _ _ | .mvIff _ _ _
  | .ld _ _ _ _ | .st _ _ _ _ | .inp _ _ _ _ | .out _ _ _ _ => false

/-- An interrupt window follows the word: it has EOI or is a taken transfer (60_exceptions R228). -/
def opensWindow (i : Instr) (s : State) : Bool := i.annot.eoi || takes i s

end Sys2Proof.Machine
end

