-- ==== Sys2Proof/Machine/Interrupt.lean ====
section
/-! DEFINITION. The interrupt-control instructions (spec/45_interrupt_control.md). None is privileged (60 R250). -/

namespace Sys2Proof.Machine

/-- `EI` (R200): both flip-flops set, `ei_hold` loaded with EI_DELAY. -/
def execEi (an : Annot) (s : State) : Host.Outcome State Fault Refusal :=
  { s.advance an with iff1 := true, iff2 := true, eiHold := s.cfg.eiDelay }.retire an Gen.dc none

/-- `DI` (R201): both flip-flops and `ei_hold` cleared; a held interrupt stays. -/
def execDi (an : Annot) (s : State) : Host.Outcome State Fault Refusal :=
  { s.advance an with iff1 := false, iff2 := false, eiHold := 0 }.retire an Gen.dc none

/-- `IM IMM16` (R202): no operation of its own; the immediate is ignored. -/
def execIm (an : Annot) (_imm : Word) (s : State) : Host.Outcome State Fault Refusal :=
  (s.advance an).retire an Gen.dc none

end Sys2Proof.Machine
end

