-- ==== Sys2Proof/Machine/Arith.lean ====
section
/-! DEFINITION. The ALU arithmetic instructions (spec/40_alu_arithmetic.md). -/

namespace Sys2Proof.Machine

/-- An 8-bit result `r` into `rd` with its flags, from the state after PC_disp. -/
def State.alu8 (s : State) (an : Annot) (rd : Reg8) (r : Byte) (g : Gen) : Host.Outcome State Fault Refusal :=
  (s.putByte rd r).retireWrite an (.byte rd) g

/-- A 16-bit result `r` into `rd`, of any class, with its flags. -/
def State.alu16 (s : State) (an : Annot) (rd : OpX) (r : Word) (g : Gen) : Host.Outcome State Fault Refusal :=
  (s.putReg rd r).retireWrite an rd g

/-- `add Ra, Rb, Rc` (R103). -/
def execAdd (an : Annot) (rd rs rt : Reg8) (s : State) : Host.Outcome State Fault Refusal :=
  (s.advance an).alu8 an rd (s.val8 rs + s.val8 rt) (addFlags 4 (s.val8 rs) (s.val8 rt))

/-- `addi Ra, Rb, IMM8` (R104). -/
def execAddi (an : Annot) (rd rs : Reg8) (imm : Byte) (s : State) : Host.Outcome State Fault Refusal :=
  (s.advance an).alu8 an rd (s.val8 rs + imm) (addFlags 4 (s.val8 rs) imm)

/-- `sub Ra, Rb, Rc` (R105). -/
def execSub (an : Annot) (rd rs rt : Reg8) (s : State) : Host.Outcome State Fault Refusal :=
  (s.advance an).alu8 an rd (s.val8 rs - s.val8 rt) (subFlags 4 (s.val8 rs) (s.val8 rt))

/-- `subi Ra, Rb, IMM8` (R109). -/
def execSubi (an : Annot) (rd rs : Reg8) (imm : Byte) (s : State) : Host.Outcome State Fault Refusal :=
  (s.advance an).alu8 an rd (s.val8 rs - imm) (subFlags 4 (s.val8 rs) imm)

/-- `add16 RRa, RRb, RRc` (R106). -/
def execAdd16 (an : Annot) (rd rs rt : OpW) (s : State) : Host.Outcome State Fault Refusal :=
  (s.advance an).alu16 an rd.toX (s.valW rs + s.valW rt) (addFlags 12 (s.valW rs) (s.valW rt))

/-- `addi16 RRa, RRb, IMM8` (R107). -/
def execAddi16 (an : Annot) (rd rs : OpW) (imm : Byte) (s : State) : Host.Outcome State Fault Refusal :=
  (s.advance an).alu16 an rd.toX (s.valW rs + sext16 imm) (addFlags 12 (s.valW rs) (sext16 imm))

/-- `sub16 RRa, RRb, RRc` (R108). -/
def execSub16 (an : Annot) (rd rs rt : OpW) (s : State) : Host.Outcome State Fault Refusal :=
  (s.advance an).alu16 an rd.toX (s.valW rs - s.valW rt) (subFlags 12 (s.valW rs) (s.valW rt))

/-- `subi16 RRa, RRb, IMM8` (R110). -/
def execSubi16 (an : Annot) (rd rs : OpW) (imm : Byte) (s : State) : Host.Outcome State Fault Refusal :=
  (s.advance an).alu16 an rd.toX (s.valW rs - sext16 imm) (subFlags 12 (s.valW rs) (sext16 imm))

end Sys2Proof.Machine
end

