-- ==== Sys2Proof/Machine/Io.lean ====
section
/-! DEFINITION. The I/O instructions (spec/46_io.md). -/

namespace Sys2Proof.Machine

/-- `in Ra, (Rb + IMM8)` (R211): the port is read exactly once, also when the destination is R0. -/
def execInp (an : Annot) (rd rs : Reg8) (imm : Byte) (s : State) : Host.Outcome State Fault Refusal :=
  ((s.advance an).portRead (s.portNum rs imm)).alu8 an rd s.portData (inFlags s.portData)

/-- `out Ra, (Rb + IMM8)` (R213). -/
def execOut (an : Annot) (ra rs : Reg8) (imm : Byte) (s : State) : Host.Outcome State Fault Refusal :=
  ((s.advance an).portWrite (s.portNum rs imm) (s.val8 ra)).retire an Gen.dc none

end Sys2Proof.Machine
end

