-- ==== Sys2Proof/Machine/LoadStore.lean ====
section
/-! DEFINITION. Load, store and load-immediate (spec/44_load_store.md). All generate no flags. -/

namespace Sys2Proof.Machine

/-- `ld Ra, (RRb + IMM8)` (R191): the address is formed before the destination is written. -/
def execLd (an : Annot) (rd : Reg8) (rb : OpW) (imm : Byte) (s : State) : Host.Outcome State Fault Refusal :=
  ((s.advance an).drew (s.openReads (s.dataAddr rb imm))).alu8 an rd (s.busRead (s.dataAddr rb imm)) Gen.dc

/-- `st Ra, (RRb + IMM8)` (R192). -/
def execSt (an : Annot) (ra : Reg8) (rb : OpW) (imm : Byte) (s : State) : Host.Outcome State Fault Refusal :=
  ((s.advance an).writeMem (s.dataAddr rb imm) (s.val8 ra)).retire an Gen.dc none

/-- `limm RRRa, IMM16` (R193). -/
def execLimm (an : Annot) (rd : OpX) (imm : Word) (s : State) : Host.Outcome State Fault Refusal :=
  (s.advance an).alu16 an rd imm Gen.dc

end Sys2Proof.Machine
end

