-- ==== Sys2Proof/Machine/Logic.lean ====
section
/-! DEFINITION. The ALU logical, shift/rotate, nibble and move instructions (spec/41_alu_logical.md). -/

namespace Sys2Proof.Machine

/-- `and RRRa, RRRb, RRRc` (R120, R124). -/
def execAnd (an : Annot) (rd rs rt : OpX) (s : State) : Host.Outcome State Fault Refusal :=
  (s.advance an).alu16 an rd (s.valX rs &&& s.valX rt)
    (andFlags s.cfg.pvLogic (s.valX rs) (s.valX rt) (s.valX rs &&& s.valX rt))

/-- `andi RRRa, RRRb, IMM8` (R120, R125). -/
def execAndi (an : Annot) (rd rs : OpX) (imm : Byte) (s : State) : Host.Outcome State Fault Refusal :=
  (s.advance an).alu16 an rd (s.valX rs &&& sext16 imm)
    (andFlags s.cfg.pvLogic (s.valX rs) (sext16 imm) (s.valX rs &&& sext16 imm))

/-- `or RRRa, RRRb, RRRc` (R120, R126). -/
def execOr (an : Annot) (rd rs rt : OpX) (s : State) : Host.Outcome State Fault Refusal :=
  (s.advance an).alu16 an rd (s.valX rs ||| s.valX rt)
    (orFlags s.cfg.pvLogic (s.valX rs) (s.valX rt) (s.valX rs ||| s.valX rt))

/-- `ori RRRa, RRRb, IMM8` (R120, R127). -/
def execOri (an : Annot) (rd rs : OpX) (imm : Byte) (s : State) : Host.Outcome State Fault Refusal :=
  (s.advance an).alu16 an rd (s.valX rs ||| sext16 imm)
    (orFlags s.cfg.pvLogic (s.valX rs) (sext16 imm) (s.valX rs ||| sext16 imm))

/-- `xor RRRa, RRRb, RRRc` (R120, R128). -/
def execXor (an : Annot) (rd rs rt : OpX) (s : State) : Host.Outcome State Fault Refusal :=
  (s.advance an).alu16 an rd (s.valX rs ^^^ s.valX rt) (xorFlags (s.valX rs ^^^ s.valX rt))

/-- `xori RRRa, RRRb, IMM8` (R120, R129). -/
def execXori (an : Annot) (rd rs : OpX) (imm : Byte) (s : State) : Host.Outcome State Fault Refusal :=
  (s.advance an).alu16 an rd (s.valX rs ^^^ sext16 imm) (xorFlags (s.valX rs ^^^ sext16 imm))

/-- `not RRRa, RRRb` (R120, R130): the 16-bit complement. -/
def execNot (an : Annot) (rd rs : OpX) (s : State) : Host.Outcome State Fault Refusal :=
  (s.advance an).alu16 an rd (~~~ s.valX rs) cplFlags

/-- `(b[6:0], x)`: one place to the left, `x` into bit 0 (R132). -/
def shiftLeft1 (b : Byte) (x : Bool) : Byte := b.extractLsb' 0 7 ++ BitVec.ofBool x

/-- `(x, b[7:1])`: one place to the right, `x` into bit 7 (R132). -/
def shiftRight1 (b : Byte) (x : Bool) : Byte := BitVec.ofBool x ++ b.extractLsb' 1 7

/-- The column `r` of R132's table. -/
def shiftResult (sel : ShiftSel) (b : Byte) (cin : Bool) : Byte :=
  match sel with
  | .rlc | .rlca => shiftLeft1 b (b.getLsbD 7)
  | .rrc | .rrca => shiftRight1 b (b.getLsbD 0)
  | .rl | .rla => shiftLeft1 b cin
  | .rr | .rra => shiftRight1 b cin
  | .sla => shiftLeft1 b false
  | .sra => shiftRight1 b (b.getLsbD 7)
  | .srl => shiftRight1 b false
  | .sll => shiftLeft1 b true

/-- The column `cout` of R132's table: the bit that leaves. -/
def shiftCarry (sel : ShiftSel) (b : Byte) : Bool :=
  match sel with
  | .rlc | .rlca | .rl | .rla | .sla | .sll => b.getLsbD 7
  | .rrc | .rrca | .rr | .rra | .sra | .srl => b.getLsbD 0

/-- `shiftrotate Ra, Rb, OP` (R132): F.C is read before any flag update. -/
def execShiftrotate (an : Annot) (rd rs : Reg8) (sel : ShiftSel) (s : State) : Host.Outcome State Fault Refusal :=
  (s.advance an).alu8 an rd (shiftResult sel (s.val8 rs) s.flagC)
    (shiftFlags sel (shiftResult sel (s.val8 rs) s.flagC) (shiftCarry sel (s.val8 rs)))

/-- The high or the low nibble of a byte, in bits 3:0 (R134). -/
def nibbleOf (b imm : Byte) : Byte := if imm != 0 then (b.extractLsb' 4 4).setWidth 8 else (b.extractLsb' 0 4).setWidth 8

/-- `get4 Ra, Rb, IMM8` (R134). -/
def execGet4 (an : Annot) (rd rs : Reg8) (imm : Byte) (s : State) : Host.Outcome State Fault Refusal :=
  (s.advance an).alu8 an rd (nibbleOf (s.val8 rs) imm) Gen.dc

/-- The two low nibbles in one byte, the first in bits 7:4 (R135). -/
def mergeNibbles (x y : Byte) : Byte := x.extractLsb' 0 4 ++ y.extractLsb' 0 4

/-- `merge44 Ra, Rb, Rc` (R135). -/
def execMerge44 (an : Annot) (rd rs rt : Reg8) (s : State) : Host.Outcome State Fault Refusal :=
  (s.advance an).alu8 an rd (mergeNibbles (s.val8 rs) (s.val8 rt)) (rldFlags (mergeNibbles (s.val8 rs) (s.val8 rt)))

/-- `mvPC RRa` (R137): `archPC` after this word's own PC_disp. -/
def execMvPC (an : Annot) (rd : OpW) (s : State) : Host.Outcome State Fault Refusal :=
  (s.advance an).alu16 an rd.toX (s.advance an).archPC Gen.dc

/-- `zext_16` of a flip-flop (R138). -/
def flipFlop (x : Bool) : Word := (BitVec.ofBool x).setWidth 16

/-- `mvIff RRRa, IMM8` (R138): the value is ANY(16) where IMM8 is not 1 or 2. -/
def execMvIff (an : Annot) (rd : OpX) (imm : Byte) (s : State) : Host.Outcome State Fault Refusal :=
  if imm = 1 then (s.advance an).alu16 an rd (flipFlop s.iff1) Gen.dc
  else if imm = 2 then (s.advance an).alu16 an rd (flipFlop s.iff2) Gen.dc
  else ((s.advance an).drew 1).alu16 an rd (s.anyWord 0) Gen.dc

end Sys2Proof.Machine
end

