-- ==== Sys2Proof/Machine/Special.lean ====
section
/-! DEFINITION. DAA and the bit operations (spec/42_alu_special_bit.md). -/

namespace Sys2Proof.Machine

/-- Is 0x06 part of the correction (R150)? -/
def daaLowFix (a : Byte) (h : Bool) : Bool := h || decide (9 < a.toNat % 16)

/-- Is 0x60 part of the correction, which is also the carry out (R150)? -/
def daaHighFix (a : Byte) (c : Bool) : Bool := c || decide (0x99 < a.toNat)

/-- `corr` (R150). -/
def daaCorrection (a : Byte) (h c : Bool) : Byte :=
  (if daaLowFix a h then 0x06 else 0x00) ||| (if daaHighFix a c then 0x60 else 0x00)

/-- `r` (R150). -/
def daaResult (a : Byte) (n h c : Bool) : Byte :=
  if n then a - daaCorrection a h c else a + daaCorrection a h c

/-- `hout` (R150). -/
def daaHalf (a : Byte) (n h : Bool) : Bool :=
  if n then h && decide (a.toNat % 16 < 6) else decide (9 < a.toNat % 16)

/-- `DAA Ra, Rb` (R150): F.N, F.H and F.C are read before any update. -/
def execDaa (an : Annot) (rd rs : Reg8) (s : State) : Host.Outcome State Fault Refusal :=
  (s.advance an).alu8 an rd (daaResult (s.val8 rs) s.flagN s.flagH s.flagC)
    (daaFlags (daaResult (s.val8 rs) s.flagN s.flagH s.flagC) (daaHalf (s.val8 rs) s.flagN s.flagH)
      (daaHighFix (s.val8 rs) s.flagC))

/-- A byte that is 0 but for bit 0. -/
def bitByte (x : Bool) : Byte := (BitVec.ofBool x).setWidth 8

/-- The end of an instruction whose bit index is above 7: the result is ANY(8) and every flag `dc` (R153 to R156). -/
def State.openResult (s : State) (an : Annot) (rd : Reg8) : Host.Outcome State Fault Refusal :=
  (s.drew 1).alu8 an rd (s.anyByte 0) Gen.dc

/-- `getbit Ra, Rb, IMM8` (R153). -/
def execGetbit (an : Annot) (rd rs : Reg8) (imm : Byte) (s : State) : Host.Outcome State Fault Refusal :=
  if imm.toNat ≤ 7 then
    (s.advance an).alu8 an rd (bitByte ((s.val8 rs).getLsbD imm.toNat)) (bitFlags (bitByte ((s.val8 rs).getLsbD imm.toNat)))
  else (s.advance an).openResult an rd

/-- `ngetbit Ra, Rb, IMM8` (R154). -/
def execNgetbit (an : Annot) (rd rs : Reg8) (imm : Byte) (s : State) : Host.Outcome State Fault Refusal :=
  if imm.toNat ≤ 7 then
    (s.advance an).alu8 an rd (bitByte (!(s.val8 rs).getLsbD imm.toNat))
      (bitFlags (bitByte (!(s.val8 rs).getLsbD imm.toNat)))
  else (s.advance an).openResult an rd

/-- A byte with one bit replaced (R155). -/
def putBit (old : Byte) (k : Nat) (v : Bool) : Byte :=
  if v then old ||| 1#8 <<< k else old &&& ~~~ (1#8 <<< k)

/-- `setbit Ra, Rb, IMM8` (R155): the whole byte of Rb is tested. -/
def execSetbit (an : Annot) (rd rs : Reg8) (imm : Byte) (s : State) : Host.Outcome State Fault Refusal :=
  if imm.toNat ≤ 7 then (s.advance an).alu8 an rd (putBit (s.val8 rd) imm.toNat (s.val8 rs != 0)) Gen.dc
  else (s.advance an).openResult an rd

/-- `nsetbit Ra, Rb, IMM8` (R156). -/
def execNsetbit (an : Annot) (rd rs : Reg8) (imm : Byte) (s : State) : Host.Outcome State Fault Refusal :=
  if imm.toNat ≤ 7 then (s.advance an).alu8 an rd (putBit (s.val8 rd) imm.toNat (s.val8 rs == 0)) Gen.dc
  else (s.advance an).openResult an rd

end Sys2Proof.Machine
end

