-- ==== Sys2Proof/Machine/Dispatch.lean ====
section
/-! DEFINITION. One arm per instruction (spec/30_encoding.md R77). -/

namespace Sys2Proof.Machine

/-- One instruction word's whole effect: steps 2 to 7 of the common sequence (30_encoding R80). -/
def exec (i : Instr) (s : State) : Host.Outcome State Fault Refusal :=
  match i with
  | .add an rd rs rt => Sys2Proof.Machine.execAdd an rd rs rt s
  | .addi an rd rs imm => Sys2Proof.Machine.execAddi an rd rs imm s
  | .sub an rd rs rt => Sys2Proof.Machine.execSub an rd rs rt s
  | .add16 an rd rs rt => Sys2Proof.Machine.execAdd16 an rd rs rt s
  | .addi16 an rd rs imm => Sys2Proof.Machine.execAddi16 an rd rs imm s
  | .sub16 an rd rs rt => Sys2Proof.Machine.execSub16 an rd rs rt s
  | .and an rd rs rt => Sys2Proof.Machine.execAnd an rd rs rt s
  | .andi an rd rs imm => Sys2Proof.Machine.execAndi an rd rs imm s
  | .or an rd rs rt => Sys2Proof.Machine.execOr an rd rs rt s
  | .ori an rd rs imm => Sys2Proof.Machine.execOri an rd rs imm s
  | .xor an rd rs rt => Sys2Proof.Machine.execXor an rd rs rt s
  | .xori an rd rs imm => Sys2Proof.Machine.execXori an rd rs imm s
  | .not an rd rs => Sys2Proof.Machine.execNot an rd rs s
  | .shiftrotate an rd rs sel => Sys2Proof.Machine.execShiftrotate an rd rs sel s
  | .get4 an rd rs imm => Sys2Proof.Machine.execGet4 an rd rs imm s
  | .merge44 an rd rs rt => Sys2Proof.Machine.execMerge44 an rd rs rt s
  | .mvPC an rd => Sys2Proof.Machine.execMvPC an rd s
  | .daa an rd rs => Sys2Proof.Machine.execDaa an rd rs s
  | .getbit an rd rs imm => Sys2Proof.Machine.execGetbit an rd rs imm s
  | .ngetbit an rd rs imm => Sys2Proof.Machine.execNgetbit an rd rs imm s
  | .setbit an rd rs imm => Sys2Proof.Machine.execSetbit an rd rs imm s
  | .nsetbit an rd rs imm => Sys2Proof.Machine.execNsetbit an rd rs imm s
  | .limm an rd imm => Sys2Proof.Machine.execLimm an rd imm s
  | .ei an => Sys2Proof.Machine.execEi an s
  | .di an => Sys2Proof.Machine.execDi an s
  | .im an imm => Sys2Proof.Machine.execIm an imm s
  | .subi an rd rs imm => Sys2Proof.Machine.execSubi an rd rs imm s
  | .subi16 an rd rs imm => Sys2Proof.Machine.execSubi16 an rd rs imm s
  | .mvIff an rd imm => Sys2Proof.Machine.execMvIff an rd imm s
  | .j an imm => Sys2Proof.Machine.execJ an imm s
  | .jr an ra => Sys2Proof.Machine.execJr an ra s
  | .jc an ra imm => Sys2Proof.Machine.execJc an ra imm s
  | .jrc an ra rb => Sys2Proof.Machine.execJrc an ra rb s
  | .bne an ra rb imm => Sys2Proof.Machine.execBne an ra rb imm s
  | .beq an ra rb imm => Sys2Proof.Machine.execBeq an ra rb imm s
  | .ld an rd rb imm => Sys2Proof.Machine.execLd an rd rb imm s
  | .st an ra rb imm => Sys2Proof.Machine.execSt an ra rb imm s
  | .inp an rd rs imm => Sys2Proof.Machine.execInp an rd rs imm s
  | .out an ra rs imm => Sys2Proof.Machine.execOut an ra rs imm s

end Sys2Proof.Machine
end

