-- ==== Sys2Proof/Machine/Supply.lean ====
section
/-! DEFINITION. What happens before the core executes a word: the environment's inputs, interrupt reception, the
translator's prefetching and translating (spec/30_encoding.md R81, 20_memory R62), and the dequeue (R80 step 8, R82). -/

namespace Sys2Proof.Machine

/-- What the environment does before the next step: the head of the script; when the script is over, the request
inputs stay as they are, no reception happens, the translator holds any number of Z80 bytes ahead (20_memory R62: no
prefetch depth is given), and it translates one group when the queue is empty. -/
def State.tick (s : State) : Tick :=
  match s.script with
  | t :: _ => t
  | [] =>
    { rst := false, intReq := s.intReq, nmiReq := s.nmiReq, receive := false, prefetch := Config.prefetchDepth s.draws,
      translate := if s.queue.isEmpty then 1 else 0 }

/-- The tick is taken from the script and the request inputs have its levels (60_exceptions R222). -/
def State.inputsSet (s : State) (t : Tick) : State :=
  { s with script := s.script.tail, intReq := t.intReq, nmiReq := t.nmiReq }

/-- The Z80 memory as the translator sees it: a byte it holds keeps the content it was fetched with (20_memory R62). -/
def State.xlatorView (s : State) (a : Word) : Byte := (Memory.find s.prefetched a.toNat).getD (s.busRead a)

/-- The bytes held when one more address is fetched ahead; a byte already held is kept. -/
def State.holding (s : State) (m : List Host.Cell) (a : Word) : List Host.Cell :=
  Memory.store m a.toNat ((Memory.find m a.toNat).getD (s.busRead a))

/-- The bytes held when the translator holds the `n` Z80 bytes from `fetchPC` on. -/
def State.heldBytes (s : State) : Nat → List Host.Cell
  | 0 => s.prefetched
  | n + 1 => s.holding (s.heldBytes n) (s.fetchPC + BitVec.ofNat 16 n)

/-- The translator fetches ahead until it holds the `n` Z80 bytes from `fetchPC` on. The draw counter advances, so that
free bytes and depths of different steps are different draws. -/
def State.prefetchBytes (s : State) (n : Nat) : State :=
  { s with prefetched := s.heldBytes n, draws := s.draws + 1 }

/-- XLATE at a Z80 address (30_encoding R81): from the table where it has an entry, else the free value. -/
def State.xlateAt (s : State) (a : Word) : Nat × List Iword :=
  match s.xlateTable.find? (fun x => x.addr == a) with
  | some x => (x.len, x.group)
  | none => Config.xlate s.xlatorView a

/-- The cell lies outside the `len` bytes from `a` on. -/
def outsideBytes (a : Word) (len : Nat) (x : Host.Cell) : Bool := decide (len ≤ (BitVec.ofNat 16 x.1 - a).toNat)

/-- The translator appends the whole group of the Z80 instruction at `fetchPC` to the queue, moves `fetchPC` over its
bytes and lets go of them (30_encoding R81). -/
def State.translateOne (s : State) : State :=
  { s with
    queue := s.queue ++ (s.xlateAt s.fetchPC).2
    fetchPC := s.fetchPC + BitVec.ofNat 16 (s.xlateAt s.fetchPC).1
    prefetched := s.prefetched.filter (outsideBytes s.fetchPC (s.xlateAt s.fetchPC).1)
    draws := s.draws + 1 }

/-- `n` groups, one after another. -/
def State.translateGroups (s : State) : Nat → State
  | 0 => s
  | n + 1 => (s.translateGroups n).translateOne

/-- Reception, if it happens before this step (60_exceptions R226). -/
def State.receiveIf (s : State) (happens : Bool) : State := if happens then s.receive else s

/-- The machine when the core is about to take its next word. -/
def State.prepared (s : State) : State :=
  ((((s.inputsSet s.tick).receiveIf s.tick.receive).prefetchBytes s.tick.prefetch).translateGroups s.tick.translate)

/-- The word the queue delivers: its head, or the filler when it is empty (30_encoding R82). -/
def State.nextWord (s : State) : Iword := s.queue.headD (fillerWord s.cfg.layout)

/-- The word has been taken from the queue. -/
def State.dequeued (s : State) : State := { s with queue := s.queue.tail }

/-- Put a word where the core takes its next word from. -/
def State.withNextWord (s : State) (w : Iword) : State := { s with queue := w :: s.queue.tail }

end Sys2Proof.Machine
end

