-- ==== Sys2Proof/Machine/Step.lean ====
section
/-! DEFINITION. One step of the machine: the environment and the translator act, the core takes the next word from the
queue, decodes it and runs it (spec/30_encoding.md R80, R81, R82), or the reset routine runs (70_reset R260). -/

namespace Sys2Proof.Machine

/-- One step. -/
def step (s : State) : Host.Outcome State Fault Refusal :=
  if s.tick.rst then .next (s.inputsSet s.tick).resetRoutine
  else
    match decode s.cfg.layout s.prepared.nextWord with
    | .ok i => exec i s.prepared.dequeued
    | .error e => .refused (.badWord e)

/-- `s` with an instruction, whose bits are `w`, at the head of the instruction queue, where the core takes its next word
from. -/
def State.withFetchWord (s : State) (nbits w : Nat) : State := s.withNextWord (BitVec.ofNat 39 (w % 2 ^ nbits))

end Sys2Proof.Machine
end

