-- ==== Sys2Proof/Safety.lean ====
section
/-! DEFINITION. The terms claims use: the invariant of the state's own data, what an instruction leaves unchanged, what a
flag update may do, the classes of instructions, and the end of a run (spec/70_reset_and_hazards.md R264). -/

namespace Sys2Proof

/-- The same annotation with another EOI bit. -/
def Annot.withEoi (an : Annot) (e : Bool) : Annot := { an with eoi := e }

/-- The same instruction with another EOI bit. -/
def Instr.withEoi (e : Bool) : Instr → Instr
  | .add an rd rs rt => .add (an.withEoi e) rd rs rt
  | .addi an rd rs imm => .addi (an.withEoi e) rd rs imm
  | .sub an rd rs rt => .sub (an.withEoi e) rd rs rt
  | .add16 an rd rs rt => .add16 (an.withEoi e) rd rs rt
  | .addi16 an rd rs imm => .addi16 (an.withEoi e) rd rs imm
  | .sub16 an rd rs rt => .sub16 (an.withEoi e) rd rs rt
  | .and an rd rs rt => .and (an.withEoi e) rd rs rt
  | .andi an rd rs imm => .andi (an.withEoi e) rd rs imm
  | .or an rd rs rt => .or (an.withEoi e) rd rs rt
  | .ori an rd rs imm => .ori (an.withEoi e) rd rs imm
  | .xor an rd rs rt => .xor (an.withEoi e) rd rs rt
  | .xori an rd rs imm => .xori (an.withEoi e) rd rs imm
  | .not an rd rs => .not (an.withEoi e) rd rs
  | .shiftrotate an rd rs sel => .shiftrotate (an.withEoi e) rd rs sel
  | .get4 an rd rs imm => .get4 (an.withEoi e) rd rs imm
  | .merge44 an rd rs rt => .merge44 (an.withEoi e) rd rs rt
  | .mvPC an rd => .mvPC (an.withEoi e) rd
  | .daa an rd rs => .daa (an.withEoi e) rd rs
  | .getbit an rd rs imm => .getbit (an.withEoi e) rd rs imm
  | .ngetbit an rd rs imm => .ngetbit (an.withEoi e) rd rs imm
  | .setbit an rd rs imm => .setbit (an.withEoi e) rd rs imm
  | .nsetbit an rd rs imm => .nsetbit (an.withEoi e) rd rs imm
  | .limm an rd imm => .limm (an.withEoi e) rd imm
  | .ei an => .ei (an.withEoi e)
  | .di an => .di (an.withEoi e)
  | .im an imm => .im (an.withEoi e) imm
  | .subi an rd rs imm => .subi (an.withEoi e) rd rs imm
  | .subi16 an rd rs imm => .subi16 (an.withEoi e) rd rs imm
  | .mvIff an rd imm => .mvIff (an.withEoi e) rd imm
  | .j an imm => .j (an.withEoi e) imm
  | .jr an ra => .jr (an.withEoi e) ra
  | .jc an ra imm => .jc (an.withEoi e) ra imm
  | .jrc an ra rb => .jrc (an.withEoi e) ra rb
  | .bne an ra rb imm => .bne (an.withEoi e) ra rb imm
  | .beq an ra rb imm => .beq (an.withEoi e) ra rb imm
  | .ld an rd rb imm => .ld (an.withEoi e) rd rb imm
  | .st an ra rb imm => .st (an.withEoi e) ra rb imm
  | .inp an rd rs imm => .inp (an.withEoi e) rd rs imm
  | .out an ra rs imm => .out (an.withEoi e) ra rs imm

end Sys2Proof

namespace Sys2Proof.Machine

/-- The two cell lists have the canonical form, and `ei_hold` is at most EI_DELAY (45 R200: only `EI` loads it). -/
def State.inv (s : State) : Bool :=
  Memory.wf s.mem && Memory.wf s.prefetched && decide (s.eiHold ≤ s.cfg.eiDelay)

/-- The instruction is a control transfer (43_control_transfer). -/
def isTransfer : Instr → Bool
  | .j _ _ | .jr _ _ | .jc _ _ _ | .jrc _ _ _ | .bne _ _ _ _ | .beq _ _ _ _ => true
  | .add _ _ _ _ | .addi _ _ _ _ | .sub _ _ _ _ | .add16 _ _ _ _ | .addi16 _ _ _ _ | .sub16 _ _ _ _ | .and _ _ _ _
  | .andi _ _ _ _ | .or _ _ _ _ | .ori _ _ _ _ | .xor _ _ _ _ | .xori _ _ _ _ | .not _ _ _ | .shiftrotate _ _ _ _
  | .get4 _ _ _ _ | .merge44 _ _ _ _ | .mvPC _ _ | .daa _ _ _ | .getbit _ _ _ _ | .ngetbit _ _ _ _ | .setbit _ _ _ _
  | .nsetbit _ _ _ _ | .limm _ _ _ | .ei _ | .di _ | .im _ _ | .subi _ _ _ _ | .subi16 _ _ _ _ | .mvIff _ _ _
  | .ld _ _ _ _ | .st _ _ _ _ | .inp _ _ _ _ | .out _ _ _ _ => false

/-- The instruction is `EI` or `DI`, the only ones that write the interrupt flip-flops (10_state R37, R38). -/
def writesIff (i : Instr) : Bool :=
  match i with
  | .ei _ => true
  | .di _ => true
  | _ => false

/-- The instruction is `st`, the only one that stores to memory (20_memory R50). -/
def isStore (i : Instr) : Bool :=
  match i with
  | .st _ _ _ _ => true
  | _ => false

/-- The instruction is `in` or `out`, the only ones that reach the I/O space (20_memory R54). -/
def isIo (i : Instr) : Bool :=
  match i with
  | .inp _ _ _ _ => true
  | .out _ _ _ _ => true
  | _ => false

/-- The two 8-bit registers a pair view is made of, high half first (10_state R23, R25). -/
def halvesOf : Reg16 → Option (Reg8 × Reg8)
  | .bc => some (.b, .c)
  | .de => some (.d, .e)
  | .hl => some (.h, .l)
  | .af => some (.a, .f)
  | .t10 => some (.t1, .t0)
  | .t32 => some (.t3, .t2)
  | .ix | .iy | .sp | .afS | .bcS | .deS | .hlS => none

/-- An 8-bit register is a half of a 16-bit one. -/
def isHalfOf (y : Reg8) (x : Reg16) : Bool :=
  match halvesOf x with
  | some (h, l) => y == h || y == l
  | none => false

/-- The two specifiers share storage (10_state R24, R26). R0 has no storage. -/
def overlaps : OpX → OpX → Bool
  | .byte x, .byte y => x == y && x != .r0
  | .word x, .word y => x == y
  | .word x, .byte y => isHalfOf y x
  | .byte y, .word x => isHalfOf y x

/-- The register `o` holds `v`: all 16 bits, or bits 7:0 in an 8-bit register; nothing is said of R0, which reads 0
whatever is written to it (10_state R27, R29). -/
def State.holds (u : State) (o : OpX) (v : Word) : Prop :=
  match o with
  | .byte .r0 => True
  | .byte x => u.val8 x = lo8 v
  | .word x => u.regs.read16 x = v

/-- One bit of F under its mask bit: unchanged where the mask bit is 0, the generated value where one is generated; a `dc`
bit under a set mask bit is left open (10_state R33). -/
def flagFollows (fm old new : Byte) (k : Nat) (g : Option Bool) : Prop :=
  if fm.getLsbD k then ∀ v, g = some v → new.getLsbD k = v else new.getLsbD k = old.getLsbD k

/-- F follows `SetFlags(F_mask, gen)` (10_state R33). -/
def flagsFollow (fm : Byte) (g : Gen) (old new : Byte) : Prop :=
  flagFollows fm old new 7 g.s ∧ flagFollows fm old new 6 g.z ∧ flagFollows fm old new 5 none ∧
  flagFollows fm old new 4 g.h ∧ flagFollows fm old new 3 none ∧ flagFollows fm old new 2 g.pv ∧
  flagFollows fm old new 1 g.n ∧ flagFollows fm old new 0 g.c

/-- `u` differs from `s`, as far as registers go, in the destination `o`, which holds `v`, and in F, which follows
SetFlags unless it is itself (in) the destination. -/
def wrote (s : State) (fm : Byte) (o : OpX) (v : Word) (g : Gen) (u : State) : Prop :=
  u.holds o v ∧
  (∀ p, overlaps o p = false → overlaps (.byte .f) p = false → u.valX p = s.valX p) ∧
  (o.holdsF = false → flagsFollow fm g s.regs.f u.regs.f)

/-- A store of `v` at `a`, through MEMMAP: RAM holds the byte, and every other byte reads as before; where there is no RAM
every byte does (20_memory R52, R59). -/
def stored (s : State) (a : Word) (v : Byte) (u : State) : Prop :=
  (s.kindAt a = .ram → u.readMem a = v) ∧ (∀ b, b ≠ a ∨ s.kindAt a ≠ .ram → u.readMem b = s.readMem b)

/-- No register differs but F, which follows SetFlags with no flag generated. -/
def keptRegs (s : State) (fm : Byte) (u : State) : Prop :=
  (∀ p, overlaps (.byte .f) p = false → u.valX p = s.valX p) ∧ flagsFollow fm Gen.dc s.regs.f u.regs.f

/-- Every byte of memory reads as before. -/
def sameMem (s u : State) : Prop := ∀ a, u.readMem a = s.readMem a

/-- Nothing passed between the core and the I/O ports. -/
def sameIo (s u : State) : Prop := u.portAnswers = s.portAnswers ∧ u.ioLog = s.ioLog

/-- The translator holds what it held. -/
def sameSupply (s u : State) : Prop := u.fetchPC = s.fetchPC ∧ u.queue = s.queue ∧ u.prefetched = s.prefetched

/-- The interrupt flip-flops and `ei_hold`. -/
def sameIff (s u : State) : Prop := u.iff1 = s.iff1 ∧ u.iff2 = s.iff2 ∧ u.eiHold = s.eiHold

/-- The held interrupt, the inputs, the parameters and the script. -/
def sameOuter (s u : State) : Prop :=
  u.pend = s.pend ∧ u.intReq = s.intReq ∧ u.nmiReq = s.nmiReq ∧ u.cfg = s.cfg ∧ u.xlateTable = s.xlateTable ∧
  u.script = s.script

/-- `archPC` after a word that is not a taken transfer (10_state R36 (a)). -/
def State.nextPC (s : State) (an : Annot) : Word := BitVec.ofNat 16 (s.archPC.toNat + an.pcDisp.toNat)

/-- The end of a word that is not a taken transfer: an interrupt window if it has EOI (60_exceptions R228). -/
def State.closed (u : State) (an : Annot) : State := if an.eoi then u.window else u

/-- The instruction completes: its one effect is `v` in `o`, the flags `g`, and `archPC` moved by PC_disp; then the
window of its EOI, if set. -/
def completesWriting (i : Instr) (s : State) (o : OpX) (v : Word) (g : Gen) : Prop :=
  ∃ u, exec i s = .next (u.closed i.annot) ∧ wrote s i.annot.fMask o v g u ∧ u.archPC = s.nextPC i.annot ∧
    sameMem s u ∧ sameIo s u ∧ sameSupply s u ∧ sameIff s u ∧ sameOuter s u

/-- The instruction completes without writing a register or memory, and no transfer is taken. -/
def completesInPlace (i : Instr) (s : State) : Prop :=
  ∃ u, exec i s = .next (u.closed i.annot) ∧ keptRegs s i.annot.fMask u ∧ u.archPC = s.nextPC i.annot ∧
    sameMem s u ∧ sameIo s u ∧ sameSupply s u ∧ sameIff s u ∧ sameOuter s u

/-- The instruction is a taken transfer to `target`: the translator restarts there with nothing held, nothing else
changes, and an interrupt window follows whatever its EOI (43_control_transfer R170, 60_exceptions R228). -/
def completesTaken (i : Instr) (s : State) (target : Word) : Prop :=
  ∃ u, exec i s = .next u.window ∧ keptRegs s i.annot.fMask u ∧ u.archPC = target ∧ u.fetchPC = target ∧
    u.queue = [] ∧ u.prefetched = [] ∧ sameMem s u ∧ sameIo s u ∧ sameIff s u ∧ sameOuter s u

/-- The step from `s` ends a run at STOP_PC (70_reset R264): it runs a word that an interrupt window follows, no
interrupt is held there, and it leaves `archPC` at the given address. -/
def stopsAt (stopPC : Word) (s : State) : Bool :=
  match decode s.cfg.layout s.prepared.nextWord, step s with
  | .ok i, .next t =>
    !s.tick.rst && opensWindow i s.prepared.dequeued && s.prepared.pend.isNone && t.archPC == stopPC
  | _, _ => false

end Sys2Proof.Machine
end

