-- ==== Sys2Proof/Certificates/Slice0/Obligations.lean ====
section
/-! DEFINITION. The statements for the provers, and the spec's tables written out for them in plain arithmetic, apart from
the functions of the model. -/

namespace Sys2Proof.Claims
open Sys2Proof.Machine

/-! ### The flag tables of the spec -/

/-- `(a + b) mod 2^w`, from the exact sum (spec/40_alu_arithmetic.md R100). -/
def sum {w : Nat} (a b : BitVec w) : BitVec w := BitVec.ofNat w (a.toNat + b.toNat)

/-- `(a - b) mod 2^w`, from the exact difference (R100). -/
def diff {w : Nat} (a b : BitVec w) : BitVec w := BitVec.ofInt w ((a.toNat : Int) - (b.toNat : Int))

/-- `sext_16` as a number (00_scope R9). -/
def signed16 (v : Byte) : Word := BitVec.ofInt 16 v.toInt

/-- The exact signed value is outside the range of `w` bits (R101: the equivalent statement of P/V). -/
def outOfRange (w : Nat) (x : Int) : Bool := decide (x < -(2 ^ (w - 1) : Int) ∨ (2 ^ (w - 1) : Int) ≤ x)

/-- The ADD column of R101 (`w` 8) and R102 (`w` 16); the half carry leaves bit `w - 5`. -/
def addTable {w : Nat} (a b : BitVec w) : Gen :=
  { s := some ((sum a b).getLsbD (w - 1))
    z := some (decide (sum a b = 0))
    h := some (decide (2 ^ (w - 4) - 1 < a.toNat % 2 ^ (w - 4) + b.toNat % 2 ^ (w - 4)))
    pv := some (outOfRange w (a.toInt + b.toInt))
    n := some false
    c := some (decide (2 ^ w - 1 < a.toNat + b.toNat)) }

/-- The SUB column of R101 and R102. -/
def subTable {w : Nat} (a b : BitVec w) : Gen :=
  { s := some ((diff a b).getLsbD (w - 1))
    z := some (decide (diff a b = 0))
    h := some (decide (a.toNat % 2 ^ (w - 4) < b.toNat % 2 ^ (w - 4)))
    pv := some (outOfRange w (a.toInt - b.toInt))
    n := some true
    c := some (decide (a.toNat < b.toNat)) }

/-- An even number of 1 bits (00_scope R11), by counting. -/
def evenParity (v : Byte) : Bool := ((List.range 8).filter (fun k => v.getLsbD k)).length % 2 == 0

/-- Bits 7:0 of a 16-bit result. -/
def low (r : Word) : Byte := BitVec.ofNat 8 r.toNat

/-- PV_LOGIC for the three readings of the parameter: 0 under the addition equation (R121), the subtraction equation, or
the free function. -/
def pvTable (p : Config.PvLogic) (a b r : Word) : Bool :=
  match p with
  | .additionEq => false
  | .subtractionEq => a.getLsbD 7 != b.getLsbD 7 && r.getLsbD 7 != a.getLsbD 7
  | .other => Config.pvLogicOther a b r

/-- R121, with `h` 1, and R122, with `h` 0. -/
def andOrTable (h pv : Bool) (r : Word) : Gen :=
  { s := some (r.getLsbD 7), z := some (decide (low r = 0)), h := some h, pv := some pv, n := some false,
    c := some false }

/-- R123; on a byte it is also the row of R136 and R212 but for C. -/
def parityTable (r : Byte) (c : Option Bool) : Gen :=
  { s := some (r.getLsbD 7), z := some (decide (r = 0)), h := some false, pv := some (evenParity r), n := some false,
    c := c }

/-- R132, column `r`: twice the byte, or half of it, with the bit that comes in. -/
def shifted (sel : ShiftSel) (b : Byte) (cin : Bool) : Byte :=
  match sel with
  | .rlc | .rlca => BitVec.ofNat 8 (2 * b.toNat + b.toNat / 128)
  | .rrc | .rrca => BitVec.ofNat 8 (b.toNat / 2 + 128 * (b.toNat % 2))
  | .rl | .rla => BitVec.ofNat 8 (2 * b.toNat + cin.toNat)
  | .rr | .rra => BitVec.ofNat 8 (b.toNat / 2 + 128 * cin.toNat)
  | .sla => BitVec.ofNat 8 (2 * b.toNat)
  | .sra => BitVec.ofNat 8 (b.toNat / 2 + 128 * (b.toNat / 128))
  | .srl => BitVec.ofNat 8 (b.toNat / 2)
  | .sll => BitVec.ofNat 8 (2 * b.toNat + 1)

/-- R132, column `cout`. -/
def shiftedOut (sel : ShiftSel) (b : Byte) : Bool :=
  match sel with
  | .rlc | .rlca | .rl | .rla | .sla | .sll => decide (128 ≤ b.toNat)
  | .rrc | .rrca | .rr | .rra | .sra | .srl => decide (b.toNat % 2 = 1)

/-- R133. -/
def shiftTable (sel : ShiftSel) (r : Byte) (c : Bool) : Gen :=
  match sel with
  | .rlca | .rrca | .rla | .rra => { s := none, z := none, h := some false, pv := none, n := some false, c := some c }
  | .rlc | .rrc | .rl | .rr | .sla | .sra | .srl | .sll => parityTable r (some c)

/-- R150, `corr` as a number: the two corrections share no bit. -/
def daaCorr (a : Byte) (h c : Bool) : Nat :=
  (if h = true ∨ 9 < a.toNat % 16 then 0x06 else 0) + (if c = true ∨ 0x99 < a.toNat then 0x60 else 0)

/-- R150, `r`. -/
def daaValue (a : Byte) (n h c : Bool) : Byte :=
  if n then BitVec.ofInt 8 ((a.toNat : Int) - (daaCorr a h c : Int)) else BitVec.ofNat 8 (a.toNat + daaCorr a h c)

/-- R151 with `hout` and `cout` of R150. -/
def daaTable (a : Byte) (n h c : Bool) : Gen :=
  { s := some ((daaValue a n h c).getLsbD 7)
    z := some (decide (daaValue a n h c = 0))
    h := some (if n then decide (h = true ∧ a.toNat % 16 < 6) else decide (9 < a.toNat % 16))
    pv := some (evenParity (daaValue a n h c))
    n := none
    c := some (decide (c = true ∨ 0x99 < a.toNat)) }

/-- R152. -/
def bitTable (r : Byte) : Gen :=
  { s := none, z := some (decide (r = 0)), h := some true, pv := none, n := some false, c := none }

/-- R131. -/
def cplTable : Gen := { s := none, z := none, h := some true, pv := none, n := some true, c := none }

/-- A byte with bit `k` replaced by `v` (R155), as numbers. -/
def bitReplaced (old : Byte) (k : Nat) (v : Bool) : Byte :=
  BitVec.ofNat 8 (old.toNat - (old.toNat / 2 ^ k % 2) * 2 ^ k + v.toNat * 2 ^ k)

/-! ### The encoding tables of the spec -/

/-- The 25 opcodes in no row of Table 6 (spec/30_encoding.md R78). -/
def reserved (op : BitVec 6) : Bool :=
  decide ((0x1D ≤ op.toNat ∧ op.toNat ≤ 0x1F) ∨ (0x26 ≤ op.toNat ∧ op.toNat ≤ 0x2F) ∨ 0x34 ≤ op.toNat)

/-- The bits of a field. -/
def bitsAt (k n : Nat) : Iword := placed k (BitVec.allOnes n)

/-- The bits of the annotation and of OP. -/
def headBits (y : Config.Layout) : Iword := bitsAt y.pcDisp 3 ||| bitsAt y.fMask 8 ||| bitsAt y.eoi 1 ||| bitsAt y.op 6

/-- The bits of a word that the instruction of an opcode uses: annotation, OP, and the fields R79 names for it, with the
immediate that the synopsis of `IM` names. -/
def usedBits (y : Config.Layout) (op : BitVec 6) : Iword :=
  match op.toNat with
  | 0x00 | 0x02 | 0x03 | 0x05 | 0x06 | 0x08 | 0x0A | 0x0F =>
    headBits y ||| bitsAt y.rd 5 ||| bitsAt y.rs 5 ||| bitsAt y.rt 5
  | 0x01 | 0x04 | 0x07 | 0x09 | 0x0B | 0x0D | 0x0E | 0x12 | 0x13 | 0x14 | 0x15 | 0x1A | 0x1B | 0x24 | 0x25 | 0x30 | 0x31
  | 0x32 | 0x33 => headBits y ||| bitsAt y.rd 5 ||| bitsAt y.rs 5 ||| bitsAt y.imm8 8
  | 0x0C | 0x11 | 0x23 => headBits y ||| bitsAt y.rd 5 ||| bitsAt y.rs 5
  | 0x10 | 0x21 => headBits y ||| bitsAt y.rd 5
  | 0x1C => headBits y ||| bitsAt y.rd 5 ||| bitsAt y.imm8 8
  | 0x16 | 0x22 => headBits y ||| bitsAt y.rd 5 ||| bitsAt y.imm16 16
  | 0x19 | 0x20 => headBits y ||| bitsAt y.imm16 16
  | _ => headBits y

/-- The number of every register specifier (10_state R22, R23). -/
def specifiers : List (BitVec 5 × OpX) :=
  [(0, .byte .r0), (1, .byte .b), (2, .byte .t0), (3, .byte .c), (4, .byte .i), (5, .byte .d), (6, .byte .t1),
   (7, .byte .e), (8, .byte .r), (9, .byte .h), (10, .byte .t2), (11, .byte .l), (13, .byte .f), (14, .byte .t3),
   (15, .byte .a), (16, .word .bc), (17, .word .ix), (18, .word .t10), (19, .word .bcS), (20, .word .de),
   (21, .word .iy), (23, .word .deS), (24, .word .hl), (25, .word .sp), (26, .word .t32), (27, .word .hlS),
   (28, .word .af), (31, .word .afS)]

/-- The IMM8 of every selector of `shiftrotate` (41_alu_logical R132). -/
def selectors : List (Byte × ShiftSel) :=
  [(0x00, .rlc), (0x01, .rlca), (0x02, .rrc), (0x03, .rrca), (0x04, .rl), (0x05, .rla), (0x06, .rr), (0x07, .rra),
   (0x08, .sla), (0x09, .sra), (0x0A, .srl), (0x0B, .sll)]

/-- The operand classes (10_state R31), and a field that is not used. -/
inductive Cls where
  | unused
  | c8
  | c16
  | any
deriving DecidableEq, Repr

/-- The classes of Rd, Rs and Rt, by opcode (R79). -/
def classes (op : BitVec 6) : Cls × Cls × Cls :=
  match op.toNat with
  | 0x00 | 0x02 | 0x0F => (.c8, .c8, .c8)
  | 0x01 | 0x0D | 0x0E | 0x11 | 0x12 | 0x13 | 0x14 | 0x15 | 0x1A | 0x32 | 0x33 => (.c8, .c8, .unused)
  | 0x03 | 0x05 => (.c16, .c16, .c16)
  | 0x04 | 0x1B => (.c16, .c16, .unused)
  | 0x06 | 0x08 | 0x0A => (.any, .any, .any)
  | 0x07 | 0x09 | 0x0B | 0x0C | 0x24 | 0x25 => (.any, .any, .unused)
  | 0x10 | 0x21 => (.c16, .unused, .unused)
  | 0x16 | 0x1C | 0x22 => (.any, .unused, .unused)
  | 0x23 => (.any, .c16, .unused)
  | 0x30 | 0x31 => (.c8, .c16, .unused)
  | _ => (.unused, .unused, .unused)

/-- A specifier is legal in a field of a class (10_state R22, R23, R30, R31). -/
def fits (c : Cls) (x : BitVec 5) : Bool :=
  match c with
  | .unused => true
  | .c8 => decide (x.toNat < 16 ∧ x.toNat ≠ 12)
  | .c16 => decide (x.toNat = 0 ∨ (16 ≤ x.toNat ∧ x.toNat ≠ 22 ∧ x.toNat ≠ 29 ∧ x.toNat ≠ 30))
  | .any => decide (x.toNat ≠ 12 ∧ x.toNat ≠ 22 ∧ x.toNat ≠ 29 ∧ x.toNat ≠ 30)

/-- The instruction of an opcode writes the register in Rd (R79, the entries W and RW). -/
def writesRd (op : BitVec 6) : Bool :=
  decide (op.toNat ≤ 0x16 ∨ op.toNat = 0x1A ∨ op.toNat = 0x1B ∨ op.toNat = 0x1C ∨ op.toNat = 0x30 ∨ op.toNat = 0x32)

/-- A word the spec gives a meaning: no REFUSE of 60_exceptions R221 applies. -/
def legalWord (x : Fields) : Bool :=
  !reserved x.op &&
  (fits (classes x.op).1 x.rd && fits (classes x.op).2.1 x.rs && fits (classes x.op).2.2 x.rt) &&
  !(decide (x.op = 0x0D) && decide (0x0B < x.imm8.toNat)) &&
  !(writesRd x.op && (decide (x.rd = 13) || decide (x.rd = 28)) && decide (x.an.fMask ≠ 0))

/-- The registers an interrupt entry writes: SP and the temporaries (60_exceptions R232). -/
def entryWrites (p : OpX) : Bool :=
  overlaps (.word .sp) p || overlaps (.word .t10) p || overlaps (.word .t32) p

/-- A two-digit decimal number packed into a byte. -/
def bcd (n : Nat) : Byte := BitVec.ofNat 8 (n / 10 * 16 + n % 10)

/-- The annotation `pd=0, fm, eoi` for words written out. -/
def ann (pd : BitVec 3) (fm : Byte) (eoi : Bool) : Annot := { pcDisp := pd, fMask := fm, eoi := eoi }

end Sys2Proof.Claims

open Sys2Proof Sys2Proof.Machine Sys2Proof.Claims

/-! ### Words -/

/-- 30_encoding R72, R73, R74, R75, R77, R79: in every layout that keeps the fields apart, every operand of every
instruction comes back from its word. The default layout is the spec's own choice (92 D1, log 1). -/
def Obligations.DecodeOfEncodeIsTheInstruction : Prop :=
  ∀ (y : Config.Layout) (i : Instr), y.wellFormed = true → i.wellFormed = true → decode y (encode y i) = .ok i

/-- 60_exceptions R221 with R30, R31, R33, R78, R79, R132: the words that get an instruction are exactly those to which no
REFUSE applies, in every layout. That they are refused is the spec's own choice (92 D6, D7, D12, D24, logs 14 to 16). -/
def Obligations.DecoderAcceptsExactlyTheLegalWords : Prop :=
  ∀ (y : Config.Layout) (w : Iword), (∃ i, decode y w = .ok i) ↔ legalWord (fieldsOf y w) = true

/-- R76: bits and fields an instruction does not use change nothing, in every layout; the encoder writes 0 there. The spec's
own choice (92 D2, log 37). -/
def Obligations.UnusedBitsAreIgnored : Prop :=
  (∀ (y : Config.Layout) (w v : Iword),
    w &&& usedBits y (fieldsOf y w).op = v &&& usedBits y (fieldsOf y w).op → decode y w = decode y v) ∧
  (∀ (y : Config.Layout) (i : Instr), y.wellFormed = true →
    encode y i &&& usedBits y (fieldsOf y (encode y i)).op = encode y i)

/-- R78: the 25 reserved opcodes, and no other, are refused as such, by the decoder and by a step. The refusal
is the spec's own choice (92 D24, log 14). -/
def Obligations.ReservedOpcodesAreRefused : Prop :=
  (∀ (y : Config.Layout) (w : Iword), reserved (fieldsOf y w).op = true ↔ decode y w = .error .reservedOpcode) ∧
  (∀ s : State, s.tick.rst = false → reserved (fieldsOf s.cfg.layout s.prepared.nextWord).op = true →
    step s = .refused (.badWord .reservedOpcode))

/-- A few words written out from R72 (95_test_vectors V1 to V10) decode to the instructions they stand for, and the 28
specifier numbers of 10_state R22, R23 name the registers of those tables, both in the decoder, here through the word of
`limm`, and in the encoder; the other four name none. The layout is the spec's own choice (92 D1, log 1). -/
def Obligations.WordsWrittenOutDecode : Prop :=
  decode layoutR72 0x1D780F7840#39 = .ok (.add (ann 1 0xD7 true) .a .a .b) ∧
  decode layoutR72 0x300AD81234#39 = .ok (.limm (ann 3 0 true) (.word .hl) 0x1234) ∧
  decode layoutR72 0x7FF8B8C500#39 = .ok (.sub16 (ann 7 0xFF true) (.reg .hl) (.reg .hl) (.reg .de)) ∧
  decode layoutR72 0x0001EA13C0#39 = .ok (.merge44 (ann 0 0 false) .t2 .t0 .a) ∧
  decode layoutR72 0x000626C8FF#39 = .ok (.st (ann 0 0 false) .t1 (.reg .sp) 0xFF) ∧
  (∀ p ∈ specifiers, regOfSpec p.1 = some p.2 ∧ p.2.spec = p.1 ∧
    decode layoutR72 (BitVec.ofNat 39 (0x16 * 2 ^ 21 + p.1.toNat * 2 ^ 16 + 0x1234)) =
      .ok (.limm (ann 0 0 false) p.2 0x1234)) ∧
  (∀ n, (∀ p ∈ specifiers, p.1 ≠ n) → regOfSpec n = none)

/-! ### Registers and flags -/

/-- 10_state R26: a pair view and its halves are one storage, the first name in bits 15:8, and no other register shares any:
a 16-bit write leaves every other 16-bit register and every byte but its own halves, an 8-bit write leaves every other
8-bit register and every 16-bit register but the one it is a half of. Which half is high is the spec's own choice (92 D4,
log 25). -/
def Obligations.PairViewsShareTheirHalves : Prop :=
  (∀ (g : Regs) (x : Reg16) (hi lo : Reg8) (v : Word) (b : Byte), halvesOf x = some (hi, lo) →
    (g.write16 x v).read8 hi = BitVec.ofNat 8 (v.toNat / 256) ∧ (g.write16 x v).read8 lo = BitVec.ofNat 8 v.toNat ∧
    (g.read16 x).toNat = 256 * (g.read8 hi).toNat + (g.read8 lo).toNat ∧
    ((g.write8 hi b).read16 x).toNat = 256 * b.toNat + (g.read16 x).toNat % 256 ∧
    ((g.write8 lo b).read16 x).toNat = 256 * ((g.read16 x).toNat / 256) + b.toNat) ∧
  (∀ (g : Regs) (x : Reg16) (v : Word), (g.write16 x v).read16 x = v) ∧
  (∀ (g : Regs) (x : Reg8) (b : Byte), x ≠ .r0 → (g.write8 x b).read8 x = b) ∧
  (∀ (g : Regs) (x y : Reg16) (v : Word), y ≠ x → (g.write16 x v).read16 y = g.read16 y) ∧
  (∀ (g : Regs) (x : Reg16) (y : Reg8) (v : Word), isHalfOf y x = false → (g.write16 x v).read8 y = g.read8 y) ∧
  (∀ (g : Regs) (x y : Reg8) (b : Byte), y ≠ x → (g.write8 x b).read8 y = g.read8 y) ∧
  (∀ (g : Regs) (x : Reg8) (y : Reg16) (b : Byte), isHalfOf x y = false → (g.write8 x b).read16 y = g.read16 y) ∧
  halvesOf .bc = some (.b, .c) ∧ halvesOf .de = some (.d, .e) ∧ halvesOf .hl = some (.h, .l) ∧
  halvesOf .af = some (.a, .f) ∧ halvesOf .t10 = some (.t1, .t0) ∧ halvesOf .t32 = some (.t3, .t2)

/-- 10_state R27, R28: R0 reads as 0 in every class and drops what is written to it; an 8-bit register read by an `RRRx`
operand is sign-extended. That the write is dropped is the spec's own choice (92 D5, log 17). -/
def Obligations.ZeroRegisterAndSignExtension : Prop :=
  ∀ s : State,
    s.val8 .r0 = 0 ∧ s.valW .r0 = 0 ∧ s.valX (.byte .r0) = 0 ∧
    (∀ v, s.putByte .r0 v = s) ∧ (∀ v, s.putReg (.byte .r0) v = s) ∧
    (∀ x, s.valX (.byte x) = signed16 (s.val8 x)) ∧ (∀ x, s.valW (.reg x) = s.valX (.word x))

/-- 10_state R33: where the destination is F or AF and F_mask is not 0, every instruction is refused and does nothing.
The refusal is the spec's own choice (92 D12, log 16). -/
def Obligations.WritingFlagsTwiceIsRefused : Prop :=
  ∀ (i : Instr) (d : OpX) (s : State), i.dest = some d → d.holdsF = true → i.annot.fMask ≠ 0 →
    exec i s = .refused .flagsWrittenTwice

/-- 00_scope R11: `parity8` is 1 when the number of 1 bits among bits 7:0 is even. -/
def Obligations.ParityIsOneForAnEvenCount : Prop := ∀ v : Byte, parity8 v = evenParity v

/-! ### ALU arithmetic -/

/-- 40_alu_arithmetic R103, R104. That the P/V bit of R101 is the signed overflow of R100 for both is deduced (92 D19, 93
K3, log 24). -/
def Obligations.AddWritesTheSumAndItsFlags : Prop :=
  (∀ an rd rs rt s, (rd = .f → an.fMask = 0) →
    completesWriting (.add an rd rs rt) s (.byte rd) (zext16 (sum (s.val8 rs) (s.val8 rt)))
      (addTable (s.val8 rs) (s.val8 rt))) ∧
  (∀ an rd rs imm s, (rd = .f → an.fMask = 0) →
    completesWriting (.addi an rd rs imm) s (.byte rd) (zext16 (sum (s.val8 rs) imm)) (addTable (s.val8 rs) imm)) ∧
  (∀ y an rd rs rt, encode y (.add an rd rs rt) = wordRRR y an 0x00 rd.spec rs.spec rt.spec) ∧
  (∀ y an rd rs imm, encode y (.addi an rd rs imm) = wordRRI y an 0x01 rd.spec rs.spec imm)

/-- 40_alu_arithmetic R105, R109. That the P/V bit of R101 is the signed overflow of R100 for both is deduced (92 D19, 93
K3, log 24). -/
def Obligations.SubWritesTheDifferenceAndItsFlags : Prop :=
  (∀ an rd rs rt s, (rd = .f → an.fMask = 0) →
    completesWriting (.sub an rd rs rt) s (.byte rd) (zext16 (diff (s.val8 rs) (s.val8 rt)))
      (subTable (s.val8 rs) (s.val8 rt))) ∧
  (∀ an rd rs imm s, (rd = .f → an.fMask = 0) →
    completesWriting (.subi an rd rs imm) s (.byte rd) (zext16 (diff (s.val8 rs) imm)) (subTable (s.val8 rs) imm)) ∧
  (∀ y an rd rs rt, encode y (.sub an rd rs rt) = wordRRR y an 0x02 rd.spec rs.spec rt.spec) ∧
  (∀ y an rd rs imm, encode y (.subi an rd rs imm) = wordRRI y an 0x1A rd.spec rs.spec imm)

/-- 40_alu_arithmetic R106, R107. That the P/V bit of R102 is the signed overflow of R100 for both is deduced (92 D19, 93
K3, log 24). -/
def Obligations.Add16WritesTheSumAndItsFlags : Prop :=
  (∀ an rd rs rt s, (rd = .reg .af → an.fMask = 0) →
    completesWriting (.add16 an rd rs rt) s rd.toX (sum (s.valW rs) (s.valW rt)) (addTable (s.valW rs) (s.valW rt))) ∧
  (∀ an rd rs imm s, (rd = .reg .af → an.fMask = 0) →
    completesWriting (.addi16 an rd rs imm) s rd.toX (sum (s.valW rs) (signed16 imm))
      (addTable (s.valW rs) (signed16 imm))) ∧
  (∀ y an rd rs rt, encode y (.add16 an rd rs rt) = wordRRR y an 0x03 rd.spec rs.spec rt.spec) ∧
  (∀ y an rd rs imm, encode y (.addi16 an rd rs imm) = wordRRI y an 0x04 rd.spec rs.spec imm)

/-- 40_alu_arithmetic R108, R110; the carry is the borrow from bit 16, as 90_conflicts C1 resolves it (92 D15, log 24). -/
def Obligations.Sub16WritesTheDifferenceAndItsFlags : Prop :=
  (∀ an rd rs rt s, (rd = .reg .af → an.fMask = 0) →
    completesWriting (.sub16 an rd rs rt) s rd.toX (diff (s.valW rs) (s.valW rt)) (subTable (s.valW rs) (s.valW rt))) ∧
  (∀ an rd rs imm s, (rd = .reg .af → an.fMask = 0) →
    completesWriting (.subi16 an rd rs imm) s rd.toX (diff (s.valW rs) (signed16 imm))
      (subTable (s.valW rs) (signed16 imm))) ∧
  (∀ y an rd rs rt, encode y (.sub16 an rd rs rt) = wordRRR y an 0x05 rd.spec rs.spec rt.spec) ∧
  (∀ y an rd rs imm, encode y (.subi16 an rd rs imm) = wordRRI y an 0x1B rd.spec rs.spec imm)

/-! ### ALU logical -/

/-- 41_alu_logical R124, R125 (R120, R121). P/V is the parameter PV_LOGIC, the spec's own choice (92 D14, log 11). -/
def Obligations.AndWritesTheConjunction : Prop :=
  (∀ an rd rs rt s, (rd.holdsF = true → an.fMask = 0) →
    completesWriting (.and an rd rs rt) s rd (s.valX rs &&& s.valX rt)
      (andOrTable true (pvTable s.cfg.pvLogic (s.valX rs) (s.valX rt) (s.valX rs &&& s.valX rt))
        (s.valX rs &&& s.valX rt))) ∧
  (∀ an rd rs imm s, (rd.holdsF = true → an.fMask = 0) →
    completesWriting (.andi an rd rs imm) s rd (s.valX rs &&& signed16 imm)
      (andOrTable true (pvTable s.cfg.pvLogic (s.valX rs) (signed16 imm) (s.valX rs &&& signed16 imm))
        (s.valX rs &&& signed16 imm))) ∧
  (∀ y an rd rs rt, encode y (.and an rd rs rt) = wordRRR y an 0x06 rd.spec rs.spec rt.spec) ∧
  (∀ y an rd rs imm, encode y (.andi an rd rs imm) = wordRRI y an 0x07 rd.spec rs.spec imm)

/-- 41_alu_logical R126, R127 (R120, R122). P/V is the parameter PV_LOGIC, the spec's own choice (92 D14, log 11). -/
def Obligations.OrWritesTheDisjunction : Prop :=
  (∀ an rd rs rt s, (rd.holdsF = true → an.fMask = 0) →
    completesWriting (.or an rd rs rt) s rd (s.valX rs ||| s.valX rt)
      (andOrTable false (pvTable s.cfg.pvLogic (s.valX rs) (s.valX rt) (s.valX rs ||| s.valX rt))
        (s.valX rs ||| s.valX rt))) ∧
  (∀ an rd rs imm s, (rd.holdsF = true → an.fMask = 0) →
    completesWriting (.ori an rd rs imm) s rd (s.valX rs ||| signed16 imm)
      (andOrTable false (pvTable s.cfg.pvLogic (s.valX rs) (signed16 imm) (s.valX rs ||| signed16 imm))
        (s.valX rs ||| signed16 imm))) ∧
  (∀ y an rd rs rt, encode y (.or an rd rs rt) = wordRRR y an 0x08 rd.spec rs.spec rt.spec) ∧
  (∀ y an rd rs imm, encode y (.ori an rd rs imm) = wordRRI y an 0x09 rd.spec rs.spec imm)

/-- 41_alu_logical R128, R129 (R120, R123). That the parity is over bits 7:0 is the spec's own choice (92 D16, log 24). -/
def Obligations.XorWritesTheExclusiveOr : Prop :=
  (∀ an rd rs rt s, (rd.holdsF = true → an.fMask = 0) →
    completesWriting (.xor an rd rs rt) s rd (s.valX rs ^^^ s.valX rt)
      (parityTable (low (s.valX rs ^^^ s.valX rt)) (some false))) ∧
  (∀ an rd rs imm s, (rd.holdsF = true → an.fMask = 0) →
    completesWriting (.xori an rd rs imm) s rd (s.valX rs ^^^ signed16 imm)
      (parityTable (low (s.valX rs ^^^ signed16 imm)) (some false))) ∧
  (∀ y an rd rs rt, encode y (.xor an rd rs rt) = wordRRR y an 0x0A rd.spec rs.spec rt.spec) ∧
  (∀ y an rd rs imm, encode y (.xori an rd rs imm) = wordRRI y an 0x0B rd.spec rs.spec imm)

/-- 41_alu_logical R130 (R120, R131): the 16-bit complement. -/
def Obligations.NotWritesTheComplement : Prop :=
  (∀ an rd rs s, (rd.holdsF = true → an.fMask = 0) →
    completesWriting (.not an rd rs) s rd (BitVec.ofNat 16 (65535 - (s.valX rs).toNat)) cplTable) ∧
  (∀ y an rd rs, encode y (.not an rd rs) = wordRRI y an 0x0C rd.spec rs.spec 0)

/-- 41_alu_logical R132 with R133: the twelve selectors, with their numbers in IMM8; the carry in is F.C before the
instruction. The bit movement and the carry are general knowledge (92 D17, 93 K5, log 22). -/
def Obligations.ShiftrotateFollowsItsTable : Prop :=
  (∀ an rd rs sel s, (rd = .f → an.fMask = 0) →
    completesWriting (.shiftrotate an rd rs sel) s (.byte rd) (zext16 (shifted sel (s.val8 rs) (s.regs.f.getLsbD 0)))
      (shiftTable sel (shifted sel (s.val8 rs) (s.regs.f.getLsbD 0)) (shiftedOut sel (s.val8 rs)))) ∧
  (∀ y an rd rs sel, encode y (.shiftrotate an rd rs sel) = wordRRI y an 0x0D rd.spec rs.spec sel.code) ∧
  (∀ p ∈ selectors, shiftSelOf p.1 = .ok p.2 ∧ p.2.code = p.1)

/-- 41_alu_logical R134: the high nibble for every non-zero IMM8, else the low one. -/
def Obligations.Get4TakesOneNibble : Prop :=
  (∀ an rd rs imm s, (rd = .f → an.fMask = 0) →
    completesWriting (.get4 an rd rs imm) s (.byte rd)
      (zext16 (BitVec.ofNat 8 (if imm = 0 then (s.val8 rs).toNat % 16 else (s.val8 rs).toNat / 16))) Gen.dc) ∧
  (∀ y an rd rs imm, encode y (.get4 an rd rs imm) = wordRRI y an 0x0E rd.spec rs.spec imm)

/-- 41_alu_logical R135, R136. Which nibble lies higher is the spec's own choice (92 D4, log 25). -/
def Obligations.Merge44JoinsTheLowNibbles : Prop :=
  (∀ an rd rs rt s, (rd = .f → an.fMask = 0) →
    completesWriting (.merge44 an rd rs rt) s (.byte rd)
      (zext16 (BitVec.ofNat 8 ((s.val8 rs).toNat % 16 * 16 + (s.val8 rt).toNat % 16)))
      (parityTable (BitVec.ofNat 8 ((s.val8 rs).toNat % 16 * 16 + (s.val8 rt).toNat % 16)) none)) ∧
  (∀ y an rd rs rt, encode y (.merge44 an rd rs rt) = wordRRR y an 0x0F rd.spec rs.spec rt.spec)

/-- 41_alu_logical R137: `archPC` with this word's own PC_disp added. -/
def Obligations.MvPCReadsTheAdvancedCounter : Prop :=
  (∀ an rd s, (rd = .reg .af → an.fMask = 0) →
    completesWriting (.mvPC an rd) s rd.toX (BitVec.ofNat 16 (s.archPC.toNat + an.pcDisp.toNat)) Gen.dc) ∧
  (∀ y an rd, encode y (.mvPC an rd) = wordRRI y an 0x10 rd.spec 0 0)

/-- 41_alu_logical R138: IFF1 or IFF2 zero-extended, any value where IMM8 is not 1 or 2. -/
def Obligations.MvIffReadsTheFlipFlops : Prop :=
  (∀ an rd s, (rd.holdsF = true → an.fMask = 0) →
    completesWriting (.mvIff an rd 1) s rd (BitVec.ofNat 16 s.iff1.toNat) Gen.dc ∧
    completesWriting (.mvIff an rd 2) s rd (BitVec.ofNat 16 s.iff2.toNat) Gen.dc ∧
    (∀ imm, imm ≠ 1 → imm ≠ 2 → ∃ v, completesWriting (.mvIff an rd imm) s rd v Gen.dc)) ∧
  (∀ y an rd imm, encode y (.mvIff an rd imm) = wordRRI y an 0x1C rd.spec 0 imm)

/-! ### DAA and bit operations -/

/-- 42_alu_special_bit R150 with R151. The algorithm is general knowledge (92 D18, 93 K6, log 23). -/
def Obligations.DaaFollowsItsAlgorithm : Prop :=
  (∀ an rd rs s, (rd = .f → an.fMask = 0) →
    completesWriting (.daa an rd rs) s (.byte rd)
      (zext16 (daaValue (s.val8 rs) (s.regs.f.getLsbD 1) (s.regs.f.getLsbD 4) (s.regs.f.getLsbD 0)))
      (daaTable (s.val8 rs) (s.regs.f.getLsbD 1) (s.regs.f.getLsbD 4) (s.regs.f.getLsbD 0))) ∧
  (∀ y an rd rs, encode y (.daa an rd rs) = wordRRI y an 0x11 rd.spec rs.spec 0)

/-- A consequence of R101 and R150: after the binary sum of two packed decimal numbers, with the half carry and carry that
sum generates, the correction gives the packed decimal sum and its decimal carry. The algorithm is general
knowledge (log 23). -/
def Obligations.DaaAfterAddGivesTheDecimalSum : Prop :=
  ∀ x y : Nat, x < 100 → y < 100 → ∀ h c : Bool,
    (addFlags 4 (bcd x) (bcd y)).h = some h → (addFlags 4 (bcd x) (bcd y)).c = some c →
    daaResult (bcd x + bcd y) false h c = bcd ((x + y) % 100) ∧
    daaHighFix (bcd x + bcd y) c = decide (100 ≤ x + y)

/-- 42_alu_special_bit R153, R154 with R152: the bit, or its complement, in bit 0; any value and no flag for an index above
7. -/
def Obligations.BitTestsCopyOneBit : Prop :=
  (∀ an rd rs imm s, (rd = .f → an.fMask = 0) →
    (imm.toNat ≤ 7 →
      completesWriting (.getbit an rd rs imm) s (.byte rd)
        (zext16 (BitVec.ofNat 8 ((s.val8 rs).toNat / 2 ^ imm.toNat % 2)))
        (bitTable (BitVec.ofNat 8 ((s.val8 rs).toNat / 2 ^ imm.toNat % 2))) ∧
      completesWriting (.ngetbit an rd rs imm) s (.byte rd)
        (zext16 (BitVec.ofNat 8 (1 - (s.val8 rs).toNat / 2 ^ imm.toNat % 2)))
        (bitTable (BitVec.ofNat 8 (1 - (s.val8 rs).toNat / 2 ^ imm.toNat % 2)))) ∧
    (7 < imm.toNat →
      (∃ v, completesWriting (.getbit an rd rs imm) s (.byte rd) v Gen.dc) ∧
      (∃ v, completesWriting (.ngetbit an rd rs imm) s (.byte rd) v Gen.dc))) ∧
  (∀ y an rd rs imm, encode y (.getbit an rd rs imm) = wordRRI y an 0x12 rd.spec rs.spec imm) ∧
  (∀ y an rd rs imm, encode y (.ngetbit an rd rs imm) = wordRRI y an 0x13 rd.spec rs.spec imm)

/-- 42_alu_special_bit R155, R156: one bit of Ra replaced by the test of the whole byte of Rb; any value for an index above
7. -/
def Obligations.BitSetsReplaceOneBit : Prop :=
  (∀ an rd rs imm s, (rd = .f → an.fMask = 0) →
    (imm.toNat ≤ 7 →
      completesWriting (.setbit an rd rs imm) s (.byte rd)
        (zext16 (bitReplaced (s.val8 rd) imm.toNat (decide (s.val8 rs ≠ 0)))) Gen.dc ∧
      completesWriting (.nsetbit an rd rs imm) s (.byte rd)
        (zext16 (bitReplaced (s.val8 rd) imm.toNat (decide (s.val8 rs = 0)))) Gen.dc) ∧
    (7 < imm.toNat →
      (∃ v, completesWriting (.setbit an rd rs imm) s (.byte rd) v Gen.dc) ∧
      (∃ v, completesWriting (.nsetbit an rd rs imm) s (.byte rd) v Gen.dc))) ∧
  (∀ y an rd rs imm, encode y (.setbit an rd rs imm) = wordRRI y an 0x14 rd.spec rs.spec imm) ∧
  (∀ y an rd rs imm, encode y (.nsetbit an rd rs imm) = wordRRI y an 0x15 rd.spec rs.spec imm)

/-! ### Load, store, I/O -/

/-- 44_load_store R193. -/
def Obligations.LimmWritesItsImmediate : Prop :=
  (∀ an rd imm s, (rd.holdsF = true → an.fMask = 0) → completesWriting (.limm an rd imm) s rd imm Gen.dc) ∧
  (∀ y an rd imm, encode y (.limm an rd imm) = wordRI y an 0x16 rd.spec imm)

/-- 44_load_store R190: base plus signed displacement. That the sum is taken modulo 65536 is the spec's own choice (20_memory
R53, 92 D9, log 26). -/
def Obligations.AddressIsBasePlusSignedDisplacement : Prop :=
  (∀ (s : State) (rb : OpW) (imm : Byte),
    s.dataAddr rb imm = BitVec.ofInt 16 (((s.valW rb).toNat : Int) + imm.toInt)) ∧
  (∀ (s : State) (imm : Byte), (s.dataAddr .r0 imm).toNat ≤ 0x7F ∨ 0xFF80 ≤ (s.dataAddr .r0 imm).toNat)

/-- 44_load_store R191: the byte at the address formed before the destination is written; any value where MEMMAP, which is
an argument (92 D33, log 30), places no memory. -/
def Obligations.LdReadsTheByteAtItsAddress : Prop :=
  (∀ an rd rb imm s, (rd = .f → an.fMask = 0) →
    (s.kindAt (s.dataAddr rb imm) ≠ .unmapped →
      completesWriting (.ld an rd rb imm) s (.byte rd) (zext16 (s.readMem (s.dataAddr rb imm))) Gen.dc) ∧
    (s.kindAt (s.dataAddr rb imm) = .unmapped → ∃ v, completesWriting (.ld an rd rb imm) s (.byte rd) v Gen.dc)) ∧
  (∀ y an rd rb imm, encode y (.ld an rd rb imm) = wordRRI y an 0x30 rd.spec rb.spec imm)

/-- 44_load_store R192: the byte at the address becomes the register's, every other byte stays, no register is written. What
a store leaves where MEMMAP, which is an argument, places no RAM is the model's choice (92 D33, log 30): nothing. -/
def Obligations.StStoresTheByteAtItsAddress : Prop :=
  (∀ an ra rb imm s, ∃ u, exec (.st an ra rb imm) s = .next (u.closed an) ∧
    stored s (s.dataAddr rb imm) (s.val8 ra) u ∧
    keptRegs s an.fMask u ∧ u.archPC = s.nextPC an ∧ sameIo s u ∧ sameSupply s u ∧ sameIff s u ∧ sameOuter s u) ∧
  (∀ y an ra rb imm, encode y (.st an ra rb imm) = wordRRI y an 0x31 ra.spec rb.spec imm)

/-- 20_memory R61 item 2: a load whose address is that of the store before it, in RAM, returns the stored byte, where no
interrupt entry with its pushes stands between the two. No other agent writes (92 D31, log 38). -/
def Obligations.LoadReturnsTheLatestStore : Prop :=
  ∀ an an' ra rb imm rd rb' imm' s t, an.eoi = false ∨ s.pend = none → exec (.st an ra rb imm) s = .next t →
    t.dataAddr rb' imm' = s.dataAddr rb imm → s.kindAt (s.dataAddr rb imm) = .ram → (rd = .f → an'.fMask = 0) →
    completesWriting (.ld an' rd rb' imm') t (.byte rd) (zext16 (s.val8 ra)) Gen.dc

/-- 00_scope R6, 20_memory R59: MEMMAP is an argument; the first region that holds an address says what is there, a region
wraps at the top, and the default is RAM at every address. The spec gives MEMMAP no form: this one is the model's choice
(92 D33, log 30). -/
def Obligations.MemoryMapIsItsFirstRegion : Prop :=
  (∀ (s : State) (r : Config.Region) (rs : List Config.Region) (a : Word), s.cfg.memmap = r :: rs →
    ((∃ k, k < r.len ∧ a = r.base + BitVec.ofNat 16 k) → s.kindAt a = r.kind) ∧
    ((∀ k, k < r.len → a ≠ r.base + BitVec.ofNat 16 k) →
      s.kindAt a = { s with cfg := { s.cfg with memmap := rs } }.kindAt a)) ∧
  (∀ (s : State) (a : Word), s.cfg.memmap = [] → s.kindAt a = .ram) ∧ State.reset.cfg.memmap = []

/-- 46_io R211 with R210, R212, 20_memory R55: the port is read once and the event recorded; the data is the environment's
next answer where it has one. The list of answers and the log of events are the model's own (log 6). -/
def Obligations.InReadsItsPortOnce : Prop :=
  (∀ an rd rs imm s, (rd = .f → an.fMask = 0) → ∃ d u, exec (.inp an rd rs imm) s = .next (u.closed an) ∧
    wrote s an.fMask (.byte rd) (zext16 d) (parityTable d none) u ∧
    u.ioLog = s.ioLog ++ [.read (sum (s.val8 rs) imm) d] ∧ (∀ x, s.portAnswers.head? = some x → d = x) ∧
    u.portAnswers = s.portAnswers.tail ∧ u.archPC = s.nextPC an ∧ sameMem s u ∧ sameSupply s u ∧ sameIff s u ∧
    sameOuter s u) ∧
  (∀ y an rd rs imm, encode y (.inp an rd rs imm) = wordRRI y an 0x32 rd.spec rs.spec imm)

/-- 46_io R213 with R210, 20_memory R55. The log of events is the model's own (log 6). -/
def Obligations.OutWritesItsPortOnce : Prop :=
  (∀ an ra rs imm s, ∃ u, exec (.out an ra rs imm) s = .next (u.closed an) ∧
    u.ioLog = s.ioLog ++ [.write (sum (s.val8 rs) imm) (s.val8 ra)] ∧ u.portAnswers = s.portAnswers ∧
    keptRegs s an.fMask u ∧ u.archPC = s.nextPC an ∧ sameMem s u ∧ sameSupply s u ∧ sameIff s u ∧ sameOuter s u) ∧
  (∀ y an ra rs imm, encode y (.out an ra rs imm) = wordRRI y an 0x33 ra.spec rs.spec imm)

/-! ### Control transfer -/

/-- 43_control_transfer R171, R172 with R170: always taken; `jr R0` jumps to 0x0000. -/
def Obligations.JumpsAreAlwaysTaken : Prop :=
  (∀ an imm s, completesTaken (.j an imm) s imm) ∧
  (∀ an x s, completesTaken (.jr an (.reg x)) s (s.regs.read16 x)) ∧
  (∀ an s, completesTaken (.jr an .r0) s 0x0000) ∧
  (∀ y an imm, encode y (.j an imm) = wordRI y an 0x20 0 imm) ∧
  (∀ y an ra, encode y (.jr an ra) = wordRI y an 0x21 ra.spec 0)

/-- 43_control_transfer R173, R174 with R178: taken exactly when the tested register is not 0. -/
def Obligations.ConditionalJumpsTestForNonZero : Prop :=
  (∀ an ra imm s, (s.valX ra ≠ 0 → completesTaken (.jc an ra imm) s imm) ∧
    (s.valX ra = 0 → completesInPlace (.jc an ra imm) s)) ∧
  (∀ an ra rb s, (s.valX ra ≠ 0 → completesTaken (.jrc an ra rb) s (s.valW rb)) ∧
    (s.valX ra = 0 → completesInPlace (.jrc an ra rb) s)) ∧
  (∀ y an ra imm, encode y (.jc an ra imm) = wordRI y an 0x22 ra.spec imm) ∧
  (∀ y an ra rb, encode y (.jrc an ra rb) = wordRRI y an 0x23 ra.spec rb.spec 0)

/-- 43_control_transfer R175, R176 with R178: the signed offset is added to the `archPC` that holds this word's PC_disp. -/
def Obligations.BranchesCompareAndAddTheirOffset : Prop :=
  (∀ an ra rb imm s,
    (s.valX ra ≠ s.valX rb → completesTaken (.bne an ra rb imm) s
      (BitVec.ofInt 16 ((s.archPC.toNat : Int) + (an.pcDisp.toNat : Int) + imm.toInt))) ∧
    (s.valX ra = s.valX rb → completesInPlace (.bne an ra rb imm) s) ∧
    (s.valX ra = s.valX rb → completesTaken (.beq an ra rb imm) s
      (BitVec.ofInt 16 ((s.archPC.toNat : Int) + (an.pcDisp.toNat : Int) + imm.toInt))) ∧
    (s.valX ra ≠ s.valX rb → completesInPlace (.beq an ra rb imm) s)) ∧
  (∀ y an ra rb imm, encode y (.bne an ra rb imm) = wordRRI y an 0x24 ra.spec rb.spec imm) ∧
  (∀ y an ra rb imm, encode y (.beq an ra rb imm) = wordRRI y an 0x25 ra.spec rb.spec imm)

/-! ### Interrupt control and interrupts -/

/-- 45_interrupt_control R200, R201: both flip-flops, and `ei_hold`; a held interrupt stays held. The spec's own
choices (92 D20, log 12). -/
def Obligations.EiAndDiWriteBothFlipFlops : Prop :=
  (∀ an s, ∃ u, exec (.ei an) s = .next (u.closed an) ∧ u.iff1 = true ∧ u.iff2 = true ∧ u.eiHold = s.cfg.eiDelay ∧
    keptRegs s an.fMask u ∧ u.archPC = s.nextPC an ∧ sameMem s u ∧ sameIo s u ∧ sameSupply s u ∧ sameOuter s u) ∧
  (∀ an s, ∃ u, exec (.di an) s = .next (u.closed an) ∧ u.iff1 = false ∧ u.iff2 = false ∧ u.eiHold = 0 ∧
    keptRegs s an.fMask u ∧ u.archPC = s.nextPC an ∧ sameMem s u ∧ sameIo s u ∧ sameSupply s u ∧ sameOuter s u) ∧
  (∀ y an, encode y (.ei an) = wordRRR y an 0x17 0 0 0) ∧ (∀ y an, encode y (.di an) = wordRRR y an 0x18 0 0 0)

/-- 45_interrupt_control R202: no state changes but for the annotation's. The spec's own reading (92 D21, log 28). -/
def Obligations.ImDoesNothing : Prop :=
  (∀ an imm s, completesInPlace (.im an imm) s) ∧ (∀ y an imm, encode y (.im an imm) = wordRI y an 0x19 0 imm)

/-- 60_exceptions R226: the four cases of reception. One held interrupt, the non-maskable first and IFF2 kept
are the spec's own choices (92 D26, D29, logs 20, 21). -/
def Obligations.ReceptionHoldsOneInterrupt : Prop :=
  ∀ s : State,
    (s.pend ≠ none → s.receive = s) ∧
    (s.pend = none → s.nmiReq = true → s.receive = { s with pend := some .nmi, iff1 := false }) ∧
    (s.pend = none → s.nmiReq = false → s.intReq = true → s.iff1 = true → s.eiHold = 0 →
      s.receive = { s with pend := some .int, iff1 := false }) ∧
    (s.pend = none → s.nmiReq = false → (s.intReq = false ∨ s.iff1 = false ∨ s.eiHold ≠ 0) → s.receive = s)

/-- 60_exceptions R232: entry pushes `archPC`, high byte at the higher address, and goes to the trap location; only SP and
the temporaries differ among the registers. The spec's own choices (92 D28, D34, log 19). What a push leaves where MEMMAP
places no RAM is the model's choice (log 30): nothing. -/
def Obligations.EntryPushesTheReturnAddress : Prop :=
  ∀ (s : State) (k : Irq),
    (s.interruptEntry k).regs.sp = s.regs.sp - 2 ∧
    (s.kindAt (s.regs.sp - 1) = .ram →
      (s.interruptEntry k).readMem (s.regs.sp - 1) = BitVec.ofNat 8 (s.archPC.toNat / 256)) ∧
    (s.kindAt (s.regs.sp - 2) = .ram →
      (s.interruptEntry k).readMem (s.regs.sp - 2) = BitVec.ofNat 8 s.archPC.toNat) ∧
    (∀ a, (a ≠ s.regs.sp - 1 ∧ a ≠ s.regs.sp - 2) ∨ s.kindAt a ≠ .ram →
      (s.interruptEntry k).readMem a = s.readMem a) ∧
    (s.interruptEntry k).archPC = (match k with | .int => s.cfg.trapInt | .nmi => s.cfg.trapNmi) ∧
    (s.interruptEntry k).fetchPC = (s.interruptEntry k).archPC ∧ (s.interruptEntry k).queue = [] ∧
    (s.interruptEntry k).prefetched = [] ∧ (s.interruptEntry k).pend = none ∧
    (∀ p, entryWrites p = false → (s.interruptEntry k).valX p = s.valX p) ∧
    sameIff s (s.interruptEntry k) ∧ sameIo s (s.interruptEntry k) ∧
    (s.interruptEntry k).intReq = s.intReq ∧ (s.interruptEntry k).nmiReq = s.nmiReq ∧
    (s.interruptEntry k).cfg = s.cfg ∧ (s.interruptEntry k).script = s.script

/-- 60_exceptions R228, `window()`, seen through the filler word, whose one effect is a window. -/
def Obligations.WindowEntersTheHeldInterrupt : Prop :=
  ∀ s : State,
    (s.pend = none → exec (.add (ann 0 0 true) .r0 .r0 .r0) s = .next { s with eiHold := s.eiHold - 1 }) ∧
    (∀ k, s.pend = some k →
      exec (.add (ann 0 0 true) .r0 .r0 .r0) s = .next { s.interruptEntry k with eiHold := s.eiHold - 1 })

/-- 30_encoding R83: setting EOI in a word that is no transfer adds a window after what the word does, and nothing else; in
a transfer it adds one where the transfer is not taken, and where it is taken, which opens its one window whatever EOI is
(60_exceptions R228), it changes nothing. -/
def Obligations.EoiOnlyAddsAWindow : Prop :=
  (∀ (i : Instr) (s : State), isTransfer i = false →
    (∀ u, exec (i.withEoi false) s = .next u → exec (i.withEoi true) s = .next u.window) ∧
    (∀ r, exec (i.withEoi false) s = .refused r → exec (i.withEoi true) s = .refused r)) ∧
  (∀ (i : Instr) (s : State), isTransfer i = true →
    (takes i s = true → (∃ target, completesTaken (i.withEoi false) s target) ∧
      exec (i.withEoi true) s = exec (i.withEoi false) s) ∧
    (takes i s = false → completesInPlace (i.withEoi false) s ∧
      ∃ u, exec (i.withEoi false) s = .next u ∧ exec (i.withEoi true) s = .next u.window))

/-- 60_exceptions R228: no interrupt is entered after a word without EOI that is no transfer; the next word is the next of
the queue and `archPC` is the sequential one. -/
def Obligations.NoEntryInsideATranslationGroup : Prop :=
  ∀ (i : Instr) (s t : State), i.annot.eoi = false → isTransfer i = false → exec i s = .next t →
    t.pend = s.pend ∧ t.archPC = s.nextPC i.annot ∧ sameSupply s t

/-- 60_exceptions R226 as a part of a step: where the environment makes reception happen before a word (`tick.receive`), the
word meets the four cases of reception, with the request levels of that step; where it does not, what was held stays. One
held interrupt, the non-maskable first and IFF2 kept are the spec's own choices (92 D26, D29, logs 20, 21); the script is
the model's own (log 7). -/
def Obligations.ReceptionHappensBeforeTheWord : Prop :=
  ∀ s : State,
    (s.tick.receive = false ∨ s.pend ≠ none →
      s.prepared.pend = s.pend ∧ s.prepared.iff1 = s.iff1 ∧ s.prepared.iff2 = s.iff2) ∧
    (s.tick.receive = true → s.pend = none → s.tick.nmiReq = true →
      s.prepared.pend = some .nmi ∧ s.prepared.iff1 = false ∧ s.prepared.iff2 = s.iff2) ∧
    (s.tick.receive = true → s.pend = none → s.tick.nmiReq = false → s.tick.intReq = true → s.iff1 = true →
      s.eiHold = 0 → s.prepared.pend = some .int ∧ s.prepared.iff1 = false ∧ s.prepared.iff2 = s.iff2) ∧
    (s.tick.receive = true → s.pend = none → s.tick.nmiReq = false →
      (s.tick.intReq = false ∨ s.iff1 = false ∨ s.eiHold ≠ 0) →
      s.prepared.pend = none ∧ s.prepared.iff1 = s.iff1 ∧ s.prepared.iff2 = s.iff2) ∧
    s.prepared.intReq = s.tick.intReq ∧ s.prepared.nmiReq = s.tick.nmiReq ∧ s.prepared.eiHold = s.eiHold ∧
    s.prepared.regs = s.regs ∧ s.prepared.archPC = s.archPC ∧ s.prepared.mem = s.mem ∧
    (∀ t ts, s.script = t :: ts → s.tick = t ∧ s.prepared.script = ts) ∧
    s.prepared.dequeued = { s.prepared with queue := s.prepared.queue.tail }

/-- 70_reset R264, with 60_exceptions R228: a run ends at STOP_PC only after a word that an interrupt window follows, that
is one with EOI or a taken transfer, with no interrupt held; it always ends there, and never after another word, an
untaken transfer without EOI among them. The end of a run is the spec's own choice (92 D37, log 32). -/
def Obligations.RunEndsOnlyAtAWindow : Prop :=
  (∀ (stopPC : Word) (s : State) (i : Instr), decode s.cfg.layout s.prepared.nextWord = .ok i → i.annot.eoi = false →
    takes i s.prepared.dequeued = false → stopsAt stopPC s = false) ∧
  (∀ (stopPC : Word) (s : State), stopsAt stopPC s = true →
    s.tick.rst = false ∧ s.prepared.pend = none ∧
    (∃ i, decode s.cfg.layout s.prepared.nextWord = .ok i ∧
      (i.annot.eoi = true ∨ takes i s.prepared.dequeued = true)) ∧
    ∃ t, step s = .next t ∧ t.archPC = stopPC ∧ t.pend = none) ∧
  (∀ (stopPC : Word) (s t : State) (i : Instr), s.tick.rst = false → decode s.cfg.layout s.prepared.nextWord = .ok i →
    (i.annot.eoi = true ∨ takes i s.prepared.dequeued = true) → s.prepared.pend = none → step s = .next t →
    t.archPC = stopPC → stopsAt stopPC s = true) ∧
  (∀ (i : Instr) (s : State), isTransfer i = false → takes i s = false)

/-! ### Whole-machine rules -/

/-- The word the queue delivers decodes to `i`: the step is `exec i` after the environment's part and the dequeue; with
the script over and a word in the queue, that part changes nothing but what the translator holds ahead, where what it held
stays. A word the decoder rejects is refused (30_encoding R80). The script, the draw counter and what happens when the
script is over are the model's own (logs 5, 7, 8, 9). -/
def Obligations.StepRunsTheDecodedInstruction : Prop :=
  (∀ (s : State) (i : Instr), s.tick.rst = false → decode s.cfg.layout s.prepared.nextWord = .ok i →
    step s = exec i s.prepared.dequeued) ∧
  (∀ (s : State) (e : Reject), s.tick.rst = false → decode s.cfg.layout s.prepared.nextWord = .error e →
    step s = .refused (.badWord e)) ∧
  (∀ (s : State) (w : Iword) (ws : List Iword) (i : Instr), s.script = [] → s.queue = w :: ws →
    decode s.cfg.layout w = .ok i →
    ∃ m, step s = exec i { s with queue := ws, prefetched := m, draws := s.draws + 1 } ∧
      ∀ x v, Memory.find s.prefetched x = some v → Memory.find m x = some v)

/-- 30_encoding R82: the plain nop changes no state, the filler only opens a window, and an empty queue delivers it.
Its encoding is the spec's own choice (92 D23). -/
def Obligations.FillerOnlyOpensAWindow : Prop :=
  fillerWord layoutR72 = 0x0008000000#39 ∧
  (∀ y : Config.Layout, ∃ i, decode y 0x0000000000#39 = .ok i ∧ ∀ s, exec i s = .next s) ∧
  (∀ y : Config.Layout, y.wellFormed = true → ∃ i, decode y (fillerWord y) = .ok i ∧ ∀ s, exec i s = .next s.window) ∧
  (∀ s : State, s.queue = [] → s.nextWord = fillerWord s.cfg.layout)

/-- 30_encoding R81 for a translator given as a table: with nothing queued, the next word is the first of the group at
`fetchPC`, the rest is queued, and `fetchPC` moves over the instruction's bytes. That one group is translated
when the script is over and the queue is empty is the model's own choice (log 8). -/
def Obligations.TranslatorDeliversTheGroupAtFetchPC : Prop :=
  ∀ (s : State) (x : XEntry) (w : Iword) (ws : List Iword) (i : Instr), s.script = [] → s.queue = [] →
    s.xlateTable.find? (fun y => y.addr == s.fetchPC) = some x → x.group = w :: ws →
    decode s.cfg.layout w = .ok i →
    ∃ m d, step s =
      exec i { s with queue := ws, fetchPC := s.fetchPC + BitVec.ofNat 16 x.len, prefetched := m, draws := d }

/-- 20_memory R62: a byte the translator has fetched ahead keeps its content, whatever is stored later, until its
instruction is translated or a flush; translation lets go of the bytes of the instruction and keeps the others; after a
flush the translator sees memory as it is. That a run may go on with a stale byte, and that a byte goes when it is
translated, are the model's choices (log 9). -/
def Obligations.FetchedBytesStayUntilTranslatedOrFlushed : Prop :=
  (∀ (s : State) (n k : Nat), k < n →
    Memory.find (s.prefetchBytes n).prefetched (s.fetchPC + BitVec.ofNat 16 k).toNat =
      some (s.xlatorView (s.fetchPC + BitVec.ofNat 16 k))) ∧
  (∀ (s : State) (n x : Nat) (v : Byte), Memory.find s.prefetched x = some v →
    Memory.find (s.prefetchBytes n).prefetched x = some v) ∧
  (∀ (s : State) (a b : Word) (u v : Byte), Memory.find s.prefetched a.toNat = some u →
    (s.writeMem b v).xlatorView a = u) ∧
  (∀ (s : State) (a : Word),
    ((s.xlateAt s.fetchPC).1 ≤ (a - s.fetchPC).toNat →
      Memory.find s.translateOne.prefetched a.toNat = Memory.find s.prefetched a.toNat) ∧
    ((a - s.fetchPC).toNat < (s.xlateAt s.fetchPC).1 → Memory.find s.translateOne.prefetched a.toNat = none)) ∧
  (∀ (s : State) (target a : Word), (s.flush target).xlatorView a = s.busRead a)

/-- 10_state R37, R38: no word but `EI` and `DI` writes the interrupt flip-flops. -/
def Obligations.OnlyEiAndDiWriteTheFlipFlops : Prop :=
  ∀ (i : Instr) (s t : State), writesIff i = false → exec i s = .next t → t.iff1 = s.iff1 ∧ t.iff2 = s.iff2

/-- 20_memory R50: where no interrupt is held, no word but `st` changes a byte of memory. -/
def Obligations.OnlyStoresChangeMemory : Prop :=
  ∀ (i : Instr) (s t : State), isStore i = false → s.pend = none → exec i s = .next t → sameMem s t

/-- 20_memory R55: a step adds at most one I/O event, at the end of the log, and only for `in` or `out`. The log is the
model's own (log 6). -/
def Obligations.IoEventsAreNeverLostOrReordered : Prop :=
  ∀ s t : State, step s = .next t → ∃ evs, t.ioLog = s.ioLog ++ evs ∧ evs.length ≤ 1 ∧
    (evs ≠ [] → ∃ i, decode s.cfg.layout s.prepared.nextWord = .ok i ∧ isIo i = true)

/-- 10_state R29, R42, R43: a word changes no register that shares no storage with its destination or F; where an interrupt
is held, SP and the temporaries are excepted. -/
def Obligations.OnlyTheDestinationRegisterChanges : Prop :=
  ∀ (i : Instr) (s t : State) (p : OpX), exec i s = .next t →
    (∀ d, i.dest = some d → overlaps d p = false) → overlaps (.byte .f) p = false →
    (s.pend = none ∨ entryWrites p = false) → t.valX p = s.valX p

/-- The parameters of 00_scope R6 and the XLATE table are constant. The model's own choice (logs 8, 10). -/
def Obligations.StepKeepsTheParameters : Prop :=
  ∀ s t : State, step s = .next t → t.cfg = s.cfg ∧ t.xlateTable = s.xlateTable

/-- The cell lists keep their canonical form and `ei_hold` stays at most EI_DELAY, from every state that has both. The
forms are the model's own (logs 4, 9, 12). -/
def Obligations.StepKeepsTheStateInvariant : Prop :=
  ∀ s t : State, s.inv = true → step s = .next t → t.inv = true

/-- The invariant, which is the model's own (logs 4, 9, 12), holds after reset. -/
def Obligations.ResetHasTheStateInvariant : Prop := State.reset.inv = true

/-- 70_reset R261: what the spec states for reset, all but R0 its own choices (92 D30, log 3). -/
def Obligations.ResetIsAsTheSpecSays : Prop :=
  State.reset.archPC = State.reset.cfg.resetPC ∧ State.reset.cfg.resetPC = 0x0000 ∧
  State.reset.fetchPC = State.reset.archPC ∧ State.reset.iff1 = false ∧ State.reset.iff2 = false ∧
  State.reset.pend = none ∧ State.reset.eiHold = 0 ∧ State.reset.queue = [] ∧ State.reset.val8 .r0 = 0

/-- 70_reset R260, 10_state R41: while RST is 1 a step runs the reset routine instead of a word; memory is not reset.
The values are the spec's own choices (92 D30, logs 3, 31). -/
def Obligations.ResetInputResetsTheCore : Prop :=
  ∀ s : State, s.tick.rst = true → ∃ t, step s = .next t ∧ t.archPC = s.cfg.resetPC ∧ t.fetchPC = s.cfg.resetPC ∧
    t.iff1 = false ∧ t.iff2 = false ∧ t.pend = none ∧ t.eiHold = 0 ∧ t.queue = [] ∧ sameMem s t ∧ sameIo s t ∧
    t.cfg = s.cfg ∧ t.val8 .r0 = 0

/-- 60_exceptions R220, R221: no word and no step raises an exception of its own: every instruction the spec gives a meaning
completes in every state, and a step stops only as the refusal of the word it took. -/
def Obligations.OnlyAWordWithoutMeaningStopsAStep : Prop :=
  (∀ (i : Instr) (s : State), i.wellFormed = true → ∃ t, exec i s = .next t) ∧
  (∀ s : State, (∃ t, step s = .next t) ∨
    (s.tick.rst = false ∧ ∃ e, decode s.cfg.layout s.prepared.nextWord = .error e ∧ step s = .refused (.badWord e)))
end

