-- ==== Sys2Proof/Laws/State.lean ====
section
/-! SUPPORT. One lemma for each field of State under each update of it, true by rfl, so that no proof unfolds a record
update. -/

namespace Sys2Proof.Machine

/-! ### `State.putByte` -/

@[simp] theorem State.putByte_regs (s : State) (x : Reg8) (v : Byte) : (s.putByte x v).regs = s.regs.write8 x v := rfl
@[simp] theorem State.putByte_archPC (s : State) (x : Reg8) (v : Byte) : (s.putByte x v).archPC = s.archPC := rfl
@[simp] theorem State.putByte_iff1 (s : State) (x : Reg8) (v : Byte) : (s.putByte x v).iff1 = s.iff1 := rfl
@[simp] theorem State.putByte_iff2 (s : State) (x : Reg8) (v : Byte) : (s.putByte x v).iff2 = s.iff2 := rfl
@[simp] theorem State.putByte_pend (s : State) (x : Reg8) (v : Byte) : (s.putByte x v).pend = s.pend := rfl
@[simp] theorem State.putByte_eiHold (s : State) (x : Reg8) (v : Byte) : (s.putByte x v).eiHold = s.eiHold := rfl
@[simp] theorem State.putByte_mem (s : State) (x : Reg8) (v : Byte) : (s.putByte x v).mem = s.mem := rfl
@[simp] theorem State.putByte_fetchPC (s : State) (x : Reg8) (v : Byte) : (s.putByte x v).fetchPC = s.fetchPC := rfl
@[simp] theorem State.putByte_queue (s : State) (x : Reg8) (v : Byte) : (s.putByte x v).queue = s.queue := rfl
@[simp] theorem State.putByte_prefetched (s : State) (x : Reg8) (v : Byte) : (s.putByte x v).prefetched =
    s.prefetched := rfl
@[simp] theorem State.putByte_intReq (s : State) (x : Reg8) (v : Byte) : (s.putByte x v).intReq = s.intReq := rfl
@[simp] theorem State.putByte_nmiReq (s : State) (x : Reg8) (v : Byte) : (s.putByte x v).nmiReq = s.nmiReq := rfl
@[simp] theorem State.putByte_cfg (s : State) (x : Reg8) (v : Byte) : (s.putByte x v).cfg = s.cfg := rfl
@[simp] theorem State.putByte_xlateTable (s : State) (x : Reg8) (v : Byte) : (s.putByte x v).xlateTable =
    s.xlateTable := rfl
@[simp] theorem State.putByte_portAnswers (s : State) (x : Reg8) (v : Byte) : (s.putByte x v).portAnswers =
    s.portAnswers := rfl
@[simp] theorem State.putByte_ioLog (s : State) (x : Reg8) (v : Byte) : (s.putByte x v).ioLog = s.ioLog := rfl
@[simp] theorem State.putByte_script (s : State) (x : Reg8) (v : Byte) : (s.putByte x v).script = s.script := rfl
@[simp] theorem State.putByte_draws (s : State) (x : Reg8) (v : Byte) : (s.putByte x v).draws = s.draws := rfl

/-! ### `State.putReg` -/

@[simp] theorem State.putReg_regs (s : State) (o : OpX) (v : Word) : (s.putReg o v).regs = s.regs.write o v := rfl
@[simp] theorem State.putReg_archPC (s : State) (o : OpX) (v : Word) : (s.putReg o v).archPC = s.archPC := rfl
@[simp] theorem State.putReg_iff1 (s : State) (o : OpX) (v : Word) : (s.putReg o v).iff1 = s.iff1 := rfl
@[simp] theorem State.putReg_iff2 (s : State) (o : OpX) (v : Word) : (s.putReg o v).iff2 = s.iff2 := rfl
@[simp] theorem State.putReg_pend (s : State) (o : OpX) (v : Word) : (s.putReg o v).pend = s.pend := rfl
@[simp] theorem State.putReg_eiHold (s : State) (o : OpX) (v : Word) : (s.putReg o v).eiHold = s.eiHold := rfl
@[simp] theorem State.putReg_mem (s : State) (o : OpX) (v : Word) : (s.putReg o v).mem = s.mem := rfl
@[simp] theorem State.putReg_fetchPC (s : State) (o : OpX) (v : Word) : (s.putReg o v).fetchPC = s.fetchPC := rfl
@[simp] theorem State.putReg_queue (s : State) (o : OpX) (v : Word) : (s.putReg o v).queue = s.queue := rfl
@[simp] theorem State.putReg_prefetched (s : State) (o : OpX) (v : Word) : (s.putReg o v).prefetched =
    s.prefetched := rfl
@[simp] theorem State.putReg_intReq (s : State) (o : OpX) (v : Word) : (s.putReg o v).intReq = s.intReq := rfl
@[simp] theorem State.putReg_nmiReq (s : State) (o : OpX) (v : Word) : (s.putReg o v).nmiReq = s.nmiReq := rfl
@[simp] theorem State.putReg_cfg (s : State) (o : OpX) (v : Word) : (s.putReg o v).cfg = s.cfg := rfl
@[simp] theorem State.putReg_xlateTable (s : State) (o : OpX) (v : Word) : (s.putReg o v).xlateTable =
    s.xlateTable := rfl
@[simp] theorem State.putReg_portAnswers (s : State) (o : OpX) (v : Word) : (s.putReg o v).portAnswers =
    s.portAnswers := rfl
@[simp] theorem State.putReg_ioLog (s : State) (o : OpX) (v : Word) : (s.putReg o v).ioLog = s.ioLog := rfl
@[simp] theorem State.putReg_script (s : State) (o : OpX) (v : Word) : (s.putReg o v).script = s.script := rfl
@[simp] theorem State.putReg_draws (s : State) (o : OpX) (v : Word) : (s.putReg o v).draws = s.draws := rfl

/-! ### `State.writeMem` -/

@[simp] theorem State.writeMem_regs (s : State) (a : Word) (v : Byte) : (s.writeMem a v).regs = s.regs := rfl
@[simp] theorem State.writeMem_archPC (s : State) (a : Word) (v : Byte) : (s.writeMem a v).archPC = s.archPC := rfl
@[simp] theorem State.writeMem_iff1 (s : State) (a : Word) (v : Byte) : (s.writeMem a v).iff1 = s.iff1 := rfl
@[simp] theorem State.writeMem_iff2 (s : State) (a : Word) (v : Byte) : (s.writeMem a v).iff2 = s.iff2 := rfl
@[simp] theorem State.writeMem_pend (s : State) (a : Word) (v : Byte) : (s.writeMem a v).pend = s.pend := rfl
@[simp] theorem State.writeMem_eiHold (s : State) (a : Word) (v : Byte) : (s.writeMem a v).eiHold = s.eiHold := rfl
@[simp] theorem State.writeMem_mem (s : State) (a : Word) (v : Byte) : (s.writeMem a v).mem = s.memAfter a v := rfl
@[simp] theorem State.writeMem_fetchPC (s : State) (a : Word) (v : Byte) : (s.writeMem a v).fetchPC = s.fetchPC := rfl
@[simp] theorem State.writeMem_queue (s : State) (a : Word) (v : Byte) : (s.writeMem a v).queue = s.queue := rfl
@[simp] theorem State.writeMem_prefetched (s : State) (a : Word) (v : Byte) : (s.writeMem a v).prefetched =
    s.prefetched := rfl
@[simp] theorem State.writeMem_intReq (s : State) (a : Word) (v : Byte) : (s.writeMem a v).intReq = s.intReq := rfl
@[simp] theorem State.writeMem_nmiReq (s : State) (a : Word) (v : Byte) : (s.writeMem a v).nmiReq = s.nmiReq := rfl
@[simp] theorem State.writeMem_cfg (s : State) (a : Word) (v : Byte) : (s.writeMem a v).cfg = s.cfg := rfl
@[simp] theorem State.writeMem_xlateTable (s : State) (a : Word) (v : Byte) : (s.writeMem a v).xlateTable =
    s.xlateTable := rfl
@[simp] theorem State.writeMem_portAnswers (s : State) (a : Word) (v : Byte) : (s.writeMem a v).portAnswers =
    s.portAnswers := rfl
@[simp] theorem State.writeMem_ioLog (s : State) (a : Word) (v : Byte) : (s.writeMem a v).ioLog = s.ioLog := rfl
@[simp] theorem State.writeMem_script (s : State) (a : Word) (v : Byte) : (s.writeMem a v).script = s.script := rfl
@[simp] theorem State.writeMem_draws (s : State) (a : Word) (v : Byte) : (s.writeMem a v).draws = s.draws := rfl

/-! ### `State.drew` -/

@[simp] theorem State.drew_regs (s : State) (k : Nat) : (s.drew k).regs = s.regs := rfl
@[simp] theorem State.drew_archPC (s : State) (k : Nat) : (s.drew k).archPC = s.archPC := rfl
@[simp] theorem State.drew_iff1 (s : State) (k : Nat) : (s.drew k).iff1 = s.iff1 := rfl
@[simp] theorem State.drew_iff2 (s : State) (k : Nat) : (s.drew k).iff2 = s.iff2 := rfl
@[simp] theorem State.drew_pend (s : State) (k : Nat) : (s.drew k).pend = s.pend := rfl
@[simp] theorem State.drew_eiHold (s : State) (k : Nat) : (s.drew k).eiHold = s.eiHold := rfl
@[simp] theorem State.drew_mem (s : State) (k : Nat) : (s.drew k).mem = s.mem := rfl
@[simp] theorem State.drew_fetchPC (s : State) (k : Nat) : (s.drew k).fetchPC = s.fetchPC := rfl
@[simp] theorem State.drew_queue (s : State) (k : Nat) : (s.drew k).queue = s.queue := rfl
@[simp] theorem State.drew_prefetched (s : State) (k : Nat) : (s.drew k).prefetched = s.prefetched := rfl
@[simp] theorem State.drew_intReq (s : State) (k : Nat) : (s.drew k).intReq = s.intReq := rfl
@[simp] theorem State.drew_nmiReq (s : State) (k : Nat) : (s.drew k).nmiReq = s.nmiReq := rfl
@[simp] theorem State.drew_cfg (s : State) (k : Nat) : (s.drew k).cfg = s.cfg := rfl
@[simp] theorem State.drew_xlateTable (s : State) (k : Nat) : (s.drew k).xlateTable = s.xlateTable := rfl
@[simp] theorem State.drew_portAnswers (s : State) (k : Nat) : (s.drew k).portAnswers = s.portAnswers := rfl
@[simp] theorem State.drew_ioLog (s : State) (k : Nat) : (s.drew k).ioLog = s.ioLog := rfl
@[simp] theorem State.drew_script (s : State) (k : Nat) : (s.drew k).script = s.script := rfl
@[simp] theorem State.drew_draws (s : State) (k : Nat) : (s.drew k).draws = s.draws + k := rfl

/-! ### `State.setFlags` -/

@[simp] theorem State.setFlags_regs (s : State) (fm : Byte) (g : Gen) : (s.setFlags fm g).regs =
    s.regs.write8 .f (mergeFlags fm g (s.anyByte 0) s.regs.f) := rfl
@[simp] theorem State.setFlags_archPC (s : State) (fm : Byte) (g : Gen) : (s.setFlags fm g).archPC = s.archPC := rfl
@[simp] theorem State.setFlags_iff1 (s : State) (fm : Byte) (g : Gen) : (s.setFlags fm g).iff1 = s.iff1 := rfl
@[simp] theorem State.setFlags_iff2 (s : State) (fm : Byte) (g : Gen) : (s.setFlags fm g).iff2 = s.iff2 := rfl
@[simp] theorem State.setFlags_pend (s : State) (fm : Byte) (g : Gen) : (s.setFlags fm g).pend = s.pend := rfl
@[simp] theorem State.setFlags_eiHold (s : State) (fm : Byte) (g : Gen) : (s.setFlags fm g).eiHold = s.eiHold := rfl
@[simp] theorem State.setFlags_mem (s : State) (fm : Byte) (g : Gen) : (s.setFlags fm g).mem = s.mem := rfl
@[simp] theorem State.setFlags_fetchPC (s : State) (fm : Byte) (g : Gen) : (s.setFlags fm g).fetchPC = s.fetchPC := rfl
@[simp] theorem State.setFlags_queue (s : State) (fm : Byte) (g : Gen) : (s.setFlags fm g).queue = s.queue := rfl
@[simp] theorem State.setFlags_prefetched (s : State) (fm : Byte) (g : Gen) : (s.setFlags fm g).prefetched =
    s.prefetched := rfl
@[simp] theorem State.setFlags_intReq (s : State) (fm : Byte) (g : Gen) : (s.setFlags fm g).intReq = s.intReq := rfl
@[simp] theorem State.setFlags_nmiReq (s : State) (fm : Byte) (g : Gen) : (s.setFlags fm g).nmiReq = s.nmiReq := rfl
@[simp] theorem State.setFlags_cfg (s : State) (fm : Byte) (g : Gen) : (s.setFlags fm g).cfg = s.cfg := rfl
@[simp] theorem State.setFlags_xlateTable (s : State) (fm : Byte) (g : Gen) : (s.setFlags fm g).xlateTable =
    s.xlateTable := rfl
@[simp] theorem State.setFlags_portAnswers (s : State) (fm : Byte) (g : Gen) : (s.setFlags fm g).portAnswers =
    s.portAnswers := rfl
@[simp] theorem State.setFlags_ioLog (s : State) (fm : Byte) (g : Gen) : (s.setFlags fm g).ioLog = s.ioLog := rfl
@[simp] theorem State.setFlags_script (s : State) (fm : Byte) (g : Gen) : (s.setFlags fm g).script = s.script := rfl
@[simp] theorem State.setFlags_draws (s : State) (fm : Byte) (g : Gen) : (s.setFlags fm g).draws =
    s.draws + (if needsDraw fm g then 1 else 0) := rfl

/-! ### `State.advance` -/

@[simp] theorem State.advance_regs (s : State) (an : Annot) : (s.advance an).regs = s.regs := rfl
@[simp] theorem State.advance_archPC (s : State) (an : Annot) : (s.advance an).archPC =
    s.archPC + an.pcDisp.setWidth 16 := rfl
@[simp] theorem State.advance_iff1 (s : State) (an : Annot) : (s.advance an).iff1 = s.iff1 := rfl
@[simp] theorem State.advance_iff2 (s : State) (an : Annot) : (s.advance an).iff2 = s.iff2 := rfl
@[simp] theorem State.advance_pend (s : State) (an : Annot) : (s.advance an).pend = s.pend := rfl
@[simp] theorem State.advance_eiHold (s : State) (an : Annot) : (s.advance an).eiHold = s.eiHold := rfl
@[simp] theorem State.advance_mem (s : State) (an : Annot) : (s.advance an).mem = s.mem := rfl
@[simp] theorem State.advance_fetchPC (s : State) (an : Annot) : (s.advance an).fetchPC = s.fetchPC := rfl
@[simp] theorem State.advance_queue (s : State) (an : Annot) : (s.advance an).queue = s.queue := rfl
@[simp] theorem State.advance_prefetched (s : State) (an : Annot) : (s.advance an).prefetched = s.prefetched := rfl
@[simp] theorem State.advance_intReq (s : State) (an : Annot) : (s.advance an).intReq = s.intReq := rfl
@[simp] theorem State.advance_nmiReq (s : State) (an : Annot) : (s.advance an).nmiReq = s.nmiReq := rfl
@[simp] theorem State.advance_cfg (s : State) (an : Annot) : (s.advance an).cfg = s.cfg := rfl
@[simp] theorem State.advance_xlateTable (s : State) (an : Annot) : (s.advance an).xlateTable = s.xlateTable := rfl
@[simp] theorem State.advance_portAnswers (s : State) (an : Annot) : (s.advance an).portAnswers = s.portAnswers := rfl
@[simp] theorem State.advance_ioLog (s : State) (an : Annot) : (s.advance an).ioLog = s.ioLog := rfl
@[simp] theorem State.advance_script (s : State) (an : Annot) : (s.advance an).script = s.script := rfl
@[simp] theorem State.advance_draws (s : State) (an : Annot) : (s.advance an).draws = s.draws := rfl

/-! ### `State.flush` -/

@[simp] theorem State.flush_regs (s : State) (t : Word) : (s.flush t).regs = s.regs := rfl
@[simp] theorem State.flush_archPC (s : State) (t : Word) : (s.flush t).archPC = t := rfl
@[simp] theorem State.flush_iff1 (s : State) (t : Word) : (s.flush t).iff1 = s.iff1 := rfl
@[simp] theorem State.flush_iff2 (s : State) (t : Word) : (s.flush t).iff2 = s.iff2 := rfl
@[simp] theorem State.flush_pend (s : State) (t : Word) : (s.flush t).pend = s.pend := rfl
@[simp] theorem State.flush_eiHold (s : State) (t : Word) : (s.flush t).eiHold = s.eiHold := rfl
@[simp] theorem State.flush_mem (s : State) (t : Word) : (s.flush t).mem = s.mem := rfl
@[simp] theorem State.flush_fetchPC (s : State) (t : Word) : (s.flush t).fetchPC = t := rfl
@[simp] theorem State.flush_queue (s : State) (t : Word) : (s.flush t).queue = [] := rfl
@[simp] theorem State.flush_prefetched (s : State) (t : Word) : (s.flush t).prefetched = [] := rfl
@[simp] theorem State.flush_intReq (s : State) (t : Word) : (s.flush t).intReq = s.intReq := rfl
@[simp] theorem State.flush_nmiReq (s : State) (t : Word) : (s.flush t).nmiReq = s.nmiReq := rfl
@[simp] theorem State.flush_cfg (s : State) (t : Word) : (s.flush t).cfg = s.cfg := rfl
@[simp] theorem State.flush_xlateTable (s : State) (t : Word) : (s.flush t).xlateTable = s.xlateTable := rfl
@[simp] theorem State.flush_portAnswers (s : State) (t : Word) : (s.flush t).portAnswers = s.portAnswers := rfl
@[simp] theorem State.flush_ioLog (s : State) (t : Word) : (s.flush t).ioLog = s.ioLog := rfl
@[simp] theorem State.flush_script (s : State) (t : Word) : (s.flush t).script = s.script := rfl
@[simp] theorem State.flush_draws (s : State) (t : Word) : (s.flush t).draws = s.draws := rfl

/-! ### `State.pushByte` -/

@[simp] theorem State.pushByte_regs (s : State) (v : Byte) : (s.pushByte v).regs =
    s.regs.write16 .sp (s.regs.sp - 1) := rfl
@[simp] theorem State.pushByte_archPC (s : State) (v : Byte) : (s.pushByte v).archPC = s.archPC := rfl
@[simp] theorem State.pushByte_iff1 (s : State) (v : Byte) : (s.pushByte v).iff1 = s.iff1 := rfl
@[simp] theorem State.pushByte_iff2 (s : State) (v : Byte) : (s.pushByte v).iff2 = s.iff2 := rfl
@[simp] theorem State.pushByte_pend (s : State) (v : Byte) : (s.pushByte v).pend = s.pend := rfl
@[simp] theorem State.pushByte_eiHold (s : State) (v : Byte) : (s.pushByte v).eiHold = s.eiHold := rfl
@[simp] theorem State.pushByte_mem (s : State) (v : Byte) : (s.pushByte v).mem =
    s.memAfter (s.regs.sp - 1) v := rfl
@[simp] theorem State.pushByte_fetchPC (s : State) (v : Byte) : (s.pushByte v).fetchPC = s.fetchPC := rfl
@[simp] theorem State.pushByte_queue (s : State) (v : Byte) : (s.pushByte v).queue = s.queue := rfl
@[simp] theorem State.pushByte_prefetched (s : State) (v : Byte) : (s.pushByte v).prefetched = s.prefetched := rfl
@[simp] theorem State.pushByte_intReq (s : State) (v : Byte) : (s.pushByte v).intReq = s.intReq := rfl
@[simp] theorem State.pushByte_nmiReq (s : State) (v : Byte) : (s.pushByte v).nmiReq = s.nmiReq := rfl
@[simp] theorem State.pushByte_cfg (s : State) (v : Byte) : (s.pushByte v).cfg = s.cfg := rfl
@[simp] theorem State.pushByte_xlateTable (s : State) (v : Byte) : (s.pushByte v).xlateTable = s.xlateTable := rfl
@[simp] theorem State.pushByte_portAnswers (s : State) (v : Byte) : (s.pushByte v).portAnswers = s.portAnswers := rfl
@[simp] theorem State.pushByte_ioLog (s : State) (v : Byte) : (s.pushByte v).ioLog = s.ioLog := rfl
@[simp] theorem State.pushByte_script (s : State) (v : Byte) : (s.pushByte v).script = s.script := rfl
@[simp] theorem State.pushByte_draws (s : State) (v : Byte) : (s.pushByte v).draws = s.draws := rfl

/-! ### `State.scrambleTemps` -/

@[simp] theorem State.scrambleTemps_archPC (s : State) : s.scrambleTemps.archPC = s.archPC := rfl
@[simp] theorem State.scrambleTemps_iff1 (s : State) : s.scrambleTemps.iff1 = s.iff1 := rfl
@[simp] theorem State.scrambleTemps_iff2 (s : State) : s.scrambleTemps.iff2 = s.iff2 := rfl
@[simp] theorem State.scrambleTemps_pend (s : State) : s.scrambleTemps.pend = s.pend := rfl
@[simp] theorem State.scrambleTemps_eiHold (s : State) : s.scrambleTemps.eiHold = s.eiHold := rfl
@[simp] theorem State.scrambleTemps_mem (s : State) : s.scrambleTemps.mem = s.mem := rfl
@[simp] theorem State.scrambleTemps_fetchPC (s : State) : s.scrambleTemps.fetchPC = s.fetchPC := rfl
@[simp] theorem State.scrambleTemps_queue (s : State) : s.scrambleTemps.queue = s.queue := rfl
@[simp] theorem State.scrambleTemps_prefetched (s : State) : s.scrambleTemps.prefetched = s.prefetched := rfl
@[simp] theorem State.scrambleTemps_intReq (s : State) : s.scrambleTemps.intReq = s.intReq := rfl
@[simp] theorem State.scrambleTemps_nmiReq (s : State) : s.scrambleTemps.nmiReq = s.nmiReq := rfl
@[simp] theorem State.scrambleTemps_cfg (s : State) : s.scrambleTemps.cfg = s.cfg := rfl
@[simp] theorem State.scrambleTemps_xlateTable (s : State) : s.scrambleTemps.xlateTable = s.xlateTable := rfl
@[simp] theorem State.scrambleTemps_portAnswers (s : State) : s.scrambleTemps.portAnswers = s.portAnswers := rfl
@[simp] theorem State.scrambleTemps_ioLog (s : State) : s.scrambleTemps.ioLog = s.ioLog := rfl
@[simp] theorem State.scrambleTemps_script (s : State) : s.scrambleTemps.script = s.script := rfl
@[simp] theorem State.scrambleTemps_draws (s : State) : s.scrambleTemps.draws = s.draws + 4 := rfl

/-! ### `State.interruptEntry` -/

@[simp] theorem State.interruptEntry_archPC (s : State) (k : Irq) : (s.interruptEntry k).archPC =
    s.trapLocation k := rfl
@[simp] theorem State.interruptEntry_iff1 (s : State) (k : Irq) : (s.interruptEntry k).iff1 = s.iff1 := rfl
@[simp] theorem State.interruptEntry_iff2 (s : State) (k : Irq) : (s.interruptEntry k).iff2 = s.iff2 := rfl
@[simp] theorem State.interruptEntry_pend (s : State) (k : Irq) : (s.interruptEntry k).pend = none := rfl
@[simp] theorem State.interruptEntry_eiHold (s : State) (k : Irq) : (s.interruptEntry k).eiHold = s.eiHold := rfl
@[simp] theorem State.interruptEntry_fetchPC (s : State) (k : Irq) : (s.interruptEntry k).fetchPC =
    s.trapLocation k := rfl
@[simp] theorem State.interruptEntry_queue (s : State) (k : Irq) : (s.interruptEntry k).queue = [] := rfl
@[simp] theorem State.interruptEntry_prefetched (s : State) (k : Irq) : (s.interruptEntry k).prefetched = [] := rfl
@[simp] theorem State.interruptEntry_intReq (s : State) (k : Irq) : (s.interruptEntry k).intReq = s.intReq := rfl
@[simp] theorem State.interruptEntry_nmiReq (s : State) (k : Irq) : (s.interruptEntry k).nmiReq = s.nmiReq := rfl
@[simp] theorem State.interruptEntry_cfg (s : State) (k : Irq) : (s.interruptEntry k).cfg = s.cfg := rfl
@[simp] theorem State.interruptEntry_xlateTable (s : State) (k : Irq) : (s.interruptEntry k).xlateTable =
    s.xlateTable := rfl
@[simp] theorem State.interruptEntry_portAnswers (s : State) (k : Irq) : (s.interruptEntry k).portAnswers =
    s.portAnswers := rfl
@[simp] theorem State.interruptEntry_ioLog (s : State) (k : Irq) : (s.interruptEntry k).ioLog = s.ioLog := rfl
@[simp] theorem State.interruptEntry_script (s : State) (k : Irq) : (s.interruptEntry k).script = s.script := rfl
@[simp] theorem State.interruptEntry_draws (s : State) (k : Irq) : (s.interruptEntry k).draws = s.draws + 4 := rfl

/-! ### `State.portRead` -/

@[simp] theorem State.portRead_regs (s : State) (p : Byte) : (s.portRead p).regs = s.regs := rfl
@[simp] theorem State.portRead_archPC (s : State) (p : Byte) : (s.portRead p).archPC = s.archPC := rfl
@[simp] theorem State.portRead_iff1 (s : State) (p : Byte) : (s.portRead p).iff1 = s.iff1 := rfl
@[simp] theorem State.portRead_iff2 (s : State) (p : Byte) : (s.portRead p).iff2 = s.iff2 := rfl
@[simp] theorem State.portRead_pend (s : State) (p : Byte) : (s.portRead p).pend = s.pend := rfl
@[simp] theorem State.portRead_eiHold (s : State) (p : Byte) : (s.portRead p).eiHold = s.eiHold := rfl
@[simp] theorem State.portRead_mem (s : State) (p : Byte) : (s.portRead p).mem = s.mem := rfl
@[simp] theorem State.portRead_fetchPC (s : State) (p : Byte) : (s.portRead p).fetchPC = s.fetchPC := rfl
@[simp] theorem State.portRead_queue (s : State) (p : Byte) : (s.portRead p).queue = s.queue := rfl
@[simp] theorem State.portRead_prefetched (s : State) (p : Byte) : (s.portRead p).prefetched = s.prefetched := rfl
@[simp] theorem State.portRead_intReq (s : State) (p : Byte) : (s.portRead p).intReq = s.intReq := rfl
@[simp] theorem State.portRead_nmiReq (s : State) (p : Byte) : (s.portRead p).nmiReq = s.nmiReq := rfl
@[simp] theorem State.portRead_cfg (s : State) (p : Byte) : (s.portRead p).cfg = s.cfg := rfl
@[simp] theorem State.portRead_xlateTable (s : State) (p : Byte) : (s.portRead p).xlateTable = s.xlateTable := rfl
@[simp] theorem State.portRead_portAnswers (s : State) (p : Byte) : (s.portRead p).portAnswers =
    s.portAnswers.tail := rfl
@[simp] theorem State.portRead_ioLog (s : State) (p : Byte) : (s.portRead p).ioLog =
    s.ioLog ++ [.read p s.portData] := rfl
@[simp] theorem State.portRead_script (s : State) (p : Byte) : (s.portRead p).script = s.script := rfl
@[simp] theorem State.portRead_draws (s : State) (p : Byte) : (s.portRead p).draws =
    s.draws + (if s.portAnswers.isEmpty then 1 else 0) := rfl

/-! ### `State.portWrite` -/

@[simp] theorem State.portWrite_regs (s : State) (p v : Byte) : (s.portWrite p v).regs = s.regs := rfl
@[simp] theorem State.portWrite_archPC (s : State) (p v : Byte) : (s.portWrite p v).archPC = s.archPC := rfl
@[simp] theorem State.portWrite_iff1 (s : State) (p v : Byte) : (s.portWrite p v).iff1 = s.iff1 := rfl
@[simp] theorem State.portWrite_iff2 (s : State) (p v : Byte) : (s.portWrite p v).iff2 = s.iff2 := rfl
@[simp] theorem State.portWrite_pend (s : State) (p v : Byte) : (s.portWrite p v).pend = s.pend := rfl
@[simp] theorem State.portWrite_eiHold (s : State) (p v : Byte) : (s.portWrite p v).eiHold = s.eiHold := rfl
@[simp] theorem State.portWrite_mem (s : State) (p v : Byte) : (s.portWrite p v).mem = s.mem := rfl
@[simp] theorem State.portWrite_fetchPC (s : State) (p v : Byte) : (s.portWrite p v).fetchPC = s.fetchPC := rfl
@[simp] theorem State.portWrite_queue (s : State) (p v : Byte) : (s.portWrite p v).queue = s.queue := rfl
@[simp] theorem State.portWrite_prefetched (s : State) (p v : Byte) : (s.portWrite p v).prefetched =
    s.prefetched := rfl
@[simp] theorem State.portWrite_intReq (s : State) (p v : Byte) : (s.portWrite p v).intReq = s.intReq := rfl
@[simp] theorem State.portWrite_nmiReq (s : State) (p v : Byte) : (s.portWrite p v).nmiReq = s.nmiReq := rfl
@[simp] theorem State.portWrite_cfg (s : State) (p v : Byte) : (s.portWrite p v).cfg = s.cfg := rfl
@[simp] theorem State.portWrite_xlateTable (s : State) (p v : Byte) : (s.portWrite p v).xlateTable =
    s.xlateTable := rfl
@[simp] theorem State.portWrite_portAnswers (s : State) (p v : Byte) : (s.portWrite p v).portAnswers =
    s.portAnswers := rfl
@[simp] theorem State.portWrite_ioLog (s : State) (p v : Byte) : (s.portWrite p v).ioLog =
    s.ioLog ++ [.write p v] := rfl
@[simp] theorem State.portWrite_script (s : State) (p v : Byte) : (s.portWrite p v).script = s.script := rfl
@[simp] theorem State.portWrite_draws (s : State) (p v : Byte) : (s.portWrite p v).draws = s.draws := rfl

/-! ### `State.resetRoutine` -/

@[simp] theorem State.resetRoutine_regs (s : State) : s.resetRoutine.regs = s.anyRegs := rfl
@[simp] theorem State.resetRoutine_archPC (s : State) : s.resetRoutine.archPC = s.cfg.resetPC := rfl
@[simp] theorem State.resetRoutine_iff1 (s : State) : s.resetRoutine.iff1 = false := rfl
@[simp] theorem State.resetRoutine_iff2 (s : State) : s.resetRoutine.iff2 = false := rfl
@[simp] theorem State.resetRoutine_pend (s : State) : s.resetRoutine.pend = none := rfl
@[simp] theorem State.resetRoutine_eiHold (s : State) : s.resetRoutine.eiHold = 0 := rfl
@[simp] theorem State.resetRoutine_mem (s : State) : s.resetRoutine.mem = s.mem := rfl
@[simp] theorem State.resetRoutine_fetchPC (s : State) : s.resetRoutine.fetchPC = s.cfg.resetPC := rfl
@[simp] theorem State.resetRoutine_queue (s : State) : s.resetRoutine.queue = [] := rfl
@[simp] theorem State.resetRoutine_prefetched (s : State) : s.resetRoutine.prefetched = [] := rfl
@[simp] theorem State.resetRoutine_intReq (s : State) : s.resetRoutine.intReq = s.intReq := rfl
@[simp] theorem State.resetRoutine_nmiReq (s : State) : s.resetRoutine.nmiReq = s.nmiReq := rfl
@[simp] theorem State.resetRoutine_cfg (s : State) : s.resetRoutine.cfg = s.cfg := rfl
@[simp] theorem State.resetRoutine_xlateTable (s : State) : s.resetRoutine.xlateTable = s.xlateTable := rfl
@[simp] theorem State.resetRoutine_portAnswers (s : State) : s.resetRoutine.portAnswers = s.portAnswers := rfl
@[simp] theorem State.resetRoutine_ioLog (s : State) : s.resetRoutine.ioLog = s.ioLog := rfl
@[simp] theorem State.resetRoutine_script (s : State) : s.resetRoutine.script = s.script := rfl
@[simp] theorem State.resetRoutine_draws (s : State) : s.resetRoutine.draws = s.draws + 21 := rfl

/-! ### `State.inputsSet` -/

@[simp] theorem State.inputsSet_regs (s : State) (t : Tick) : (s.inputsSet t).regs = s.regs := rfl
@[simp] theorem State.inputsSet_archPC (s : State) (t : Tick) : (s.inputsSet t).archPC = s.archPC := rfl
@[simp] theorem State.inputsSet_iff1 (s : State) (t : Tick) : (s.inputsSet t).iff1 = s.iff1 := rfl
@[simp] theorem State.inputsSet_iff2 (s : State) (t : Tick) : (s.inputsSet t).iff2 = s.iff2 := rfl
@[simp] theorem State.inputsSet_pend (s : State) (t : Tick) : (s.inputsSet t).pend = s.pend := rfl
@[simp] theorem State.inputsSet_eiHold (s : State) (t : Tick) : (s.inputsSet t).eiHold = s.eiHold := rfl
@[simp] theorem State.inputsSet_mem (s : State) (t : Tick) : (s.inputsSet t).mem = s.mem := rfl
@[simp] theorem State.inputsSet_fetchPC (s : State) (t : Tick) : (s.inputsSet t).fetchPC = s.fetchPC := rfl
@[simp] theorem State.inputsSet_queue (s : State) (t : Tick) : (s.inputsSet t).queue = s.queue := rfl
@[simp] theorem State.inputsSet_prefetched (s : State) (t : Tick) : (s.inputsSet t).prefetched = s.prefetched := rfl
@[simp] theorem State.inputsSet_intReq (s : State) (t : Tick) : (s.inputsSet t).intReq = t.intReq := rfl
@[simp] theorem State.inputsSet_nmiReq (s : State) (t : Tick) : (s.inputsSet t).nmiReq = t.nmiReq := rfl
@[simp] theorem State.inputsSet_cfg (s : State) (t : Tick) : (s.inputsSet t).cfg = s.cfg := rfl
@[simp] theorem State.inputsSet_xlateTable (s : State) (t : Tick) : (s.inputsSet t).xlateTable = s.xlateTable := rfl
@[simp] theorem State.inputsSet_portAnswers (s : State) (t : Tick) : (s.inputsSet t).portAnswers = s.portAnswers := rfl
@[simp] theorem State.inputsSet_ioLog (s : State) (t : Tick) : (s.inputsSet t).ioLog = s.ioLog := rfl
@[simp] theorem State.inputsSet_script (s : State) (t : Tick) : (s.inputsSet t).script = s.script.tail := rfl
@[simp] theorem State.inputsSet_draws (s : State) (t : Tick) : (s.inputsSet t).draws = s.draws := rfl

/-! ### `State.prefetchBytes` -/

@[simp] theorem State.prefetchBytes_regs (s : State) (n : Nat) : (s.prefetchBytes n).regs = s.regs := rfl
@[simp] theorem State.prefetchBytes_archPC (s : State) (n : Nat) : (s.prefetchBytes n).archPC = s.archPC := rfl
@[simp] theorem State.prefetchBytes_iff1 (s : State) (n : Nat) : (s.prefetchBytes n).iff1 = s.iff1 := rfl
@[simp] theorem State.prefetchBytes_iff2 (s : State) (n : Nat) : (s.prefetchBytes n).iff2 = s.iff2 := rfl
@[simp] theorem State.prefetchBytes_pend (s : State) (n : Nat) : (s.prefetchBytes n).pend = s.pend := rfl
@[simp] theorem State.prefetchBytes_eiHold (s : State) (n : Nat) : (s.prefetchBytes n).eiHold = s.eiHold := rfl
@[simp] theorem State.prefetchBytes_mem (s : State) (n : Nat) : (s.prefetchBytes n).mem = s.mem := rfl
@[simp] theorem State.prefetchBytes_fetchPC (s : State) (n : Nat) : (s.prefetchBytes n).fetchPC = s.fetchPC := rfl
@[simp] theorem State.prefetchBytes_queue (s : State) (n : Nat) : (s.prefetchBytes n).queue = s.queue := rfl
@[simp] theorem State.prefetchBytes_prefetched (s : State) (n : Nat) : (s.prefetchBytes n).prefetched =
    s.heldBytes n := rfl
@[simp] theorem State.prefetchBytes_intReq (s : State) (n : Nat) : (s.prefetchBytes n).intReq = s.intReq := rfl
@[simp] theorem State.prefetchBytes_nmiReq (s : State) (n : Nat) : (s.prefetchBytes n).nmiReq = s.nmiReq := rfl
@[simp] theorem State.prefetchBytes_cfg (s : State) (n : Nat) : (s.prefetchBytes n).cfg = s.cfg := rfl
@[simp] theorem State.prefetchBytes_xlateTable (s : State) (n : Nat) : (s.prefetchBytes n).xlateTable =
    s.xlateTable := rfl
@[simp] theorem State.prefetchBytes_portAnswers (s : State) (n : Nat) : (s.prefetchBytes n).portAnswers =
    s.portAnswers := rfl
@[simp] theorem State.prefetchBytes_ioLog (s : State) (n : Nat) : (s.prefetchBytes n).ioLog = s.ioLog := rfl
@[simp] theorem State.prefetchBytes_script (s : State) (n : Nat) : (s.prefetchBytes n).script = s.script := rfl
@[simp] theorem State.prefetchBytes_draws (s : State) (n : Nat) : (s.prefetchBytes n).draws = s.draws + 1 := rfl

/-! ### `State.translateOne` -/

@[simp] theorem State.translateOne_regs (s : State) : s.translateOne.regs = s.regs := rfl
@[simp] theorem State.translateOne_archPC (s : State) : s.translateOne.archPC = s.archPC := rfl
@[simp] theorem State.translateOne_iff1 (s : State) : s.translateOne.iff1 = s.iff1 := rfl
@[simp] theorem State.translateOne_iff2 (s : State) : s.translateOne.iff2 = s.iff2 := rfl
@[simp] theorem State.translateOne_pend (s : State) : s.translateOne.pend = s.pend := rfl
@[simp] theorem State.translateOne_eiHold (s : State) : s.translateOne.eiHold = s.eiHold := rfl
@[simp] theorem State.translateOne_mem (s : State) : s.translateOne.mem = s.mem := rfl
@[simp] theorem State.translateOne_fetchPC (s : State) : s.translateOne.fetchPC =
    s.fetchPC + BitVec.ofNat 16 (s.xlateAt s.fetchPC).1 := rfl
@[simp] theorem State.translateOne_queue (s : State) : s.translateOne.queue = s.queue ++ (s.xlateAt s.fetchPC).2 := rfl
@[simp] theorem State.translateOne_prefetched (s : State) : s.translateOne.prefetched =
    s.prefetched.filter (outsideBytes s.fetchPC (s.xlateAt s.fetchPC).1) := rfl
@[simp] theorem State.translateOne_intReq (s : State) : s.translateOne.intReq = s.intReq := rfl
@[simp] theorem State.translateOne_nmiReq (s : State) : s.translateOne.nmiReq = s.nmiReq := rfl
@[simp] theorem State.translateOne_cfg (s : State) : s.translateOne.cfg = s.cfg := rfl
@[simp] theorem State.translateOne_xlateTable (s : State) : s.translateOne.xlateTable = s.xlateTable := rfl
@[simp] theorem State.translateOne_portAnswers (s : State) : s.translateOne.portAnswers = s.portAnswers := rfl
@[simp] theorem State.translateOne_ioLog (s : State) : s.translateOne.ioLog = s.ioLog := rfl
@[simp] theorem State.translateOne_script (s : State) : s.translateOne.script = s.script := rfl
@[simp] theorem State.translateOne_draws (s : State) : s.translateOne.draws = s.draws + 1 := rfl

/-! ### `State.dequeued` -/

@[simp] theorem State.dequeued_regs (s : State) : s.dequeued.regs = s.regs := rfl
@[simp] theorem State.dequeued_archPC (s : State) : s.dequeued.archPC = s.archPC := rfl
@[simp] theorem State.dequeued_iff1 (s : State) : s.dequeued.iff1 = s.iff1 := rfl
@[simp] theorem State.dequeued_iff2 (s : State) : s.dequeued.iff2 = s.iff2 := rfl
@[simp] theorem State.dequeued_pend (s : State) : s.dequeued.pend = s.pend := rfl
@[simp] theorem State.dequeued_eiHold (s : State) : s.dequeued.eiHold = s.eiHold := rfl
@[simp] theorem State.dequeued_mem (s : State) : s.dequeued.mem = s.mem := rfl
@[simp] theorem State.dequeued_fetchPC (s : State) : s.dequeued.fetchPC = s.fetchPC := rfl
@[simp] theorem State.dequeued_queue (s : State) : s.dequeued.queue = s.queue.tail := rfl
@[simp] theorem State.dequeued_prefetched (s : State) : s.dequeued.prefetched = s.prefetched := rfl
@[simp] theorem State.dequeued_intReq (s : State) : s.dequeued.intReq = s.intReq := rfl
@[simp] theorem State.dequeued_nmiReq (s : State) : s.dequeued.nmiReq = s.nmiReq := rfl
@[simp] theorem State.dequeued_cfg (s : State) : s.dequeued.cfg = s.cfg := rfl
@[simp] theorem State.dequeued_xlateTable (s : State) : s.dequeued.xlateTable = s.xlateTable := rfl
@[simp] theorem State.dequeued_portAnswers (s : State) : s.dequeued.portAnswers = s.portAnswers := rfl
@[simp] theorem State.dequeued_ioLog (s : State) : s.dequeued.ioLog = s.ioLog := rfl
@[simp] theorem State.dequeued_script (s : State) : s.dequeued.script = s.script := rfl
@[simp] theorem State.dequeued_draws (s : State) : s.dequeued.draws = s.draws := rfl

/-! ### `State.withNextWord` -/

@[simp] theorem State.withNextWord_regs (s : State) (w : Iword) : (s.withNextWord w).regs = s.regs := rfl
@[simp] theorem State.withNextWord_archPC (s : State) (w : Iword) : (s.withNextWord w).archPC = s.archPC := rfl
@[simp] theorem State.withNextWord_iff1 (s : State) (w : Iword) : (s.withNextWord w).iff1 = s.iff1 := rfl
@[simp] theorem State.withNextWord_iff2 (s : State) (w : Iword) : (s.withNextWord w).iff2 = s.iff2 := rfl
@[simp] theorem State.withNextWord_pend (s : State) (w : Iword) : (s.withNextWord w).pend = s.pend := rfl
@[simp] theorem State.withNextWord_eiHold (s : State) (w : Iword) : (s.withNextWord w).eiHold = s.eiHold := rfl
@[simp] theorem State.withNextWord_mem (s : State) (w : Iword) : (s.withNextWord w).mem = s.mem := rfl
@[simp] theorem State.withNextWord_fetchPC (s : State) (w : Iword) : (s.withNextWord w).fetchPC = s.fetchPC := rfl
@[simp] theorem State.withNextWord_queue (s : State) (w : Iword) : (s.withNextWord w).queue = w :: s.queue.tail := rfl
@[simp] theorem State.withNextWord_prefetched (s : State) (w : Iword) : (s.withNextWord w).prefetched =
    s.prefetched := rfl
@[simp] theorem State.withNextWord_intReq (s : State) (w : Iword) : (s.withNextWord w).intReq = s.intReq := rfl
@[simp] theorem State.withNextWord_nmiReq (s : State) (w : Iword) : (s.withNextWord w).nmiReq = s.nmiReq := rfl
@[simp] theorem State.withNextWord_cfg (s : State) (w : Iword) : (s.withNextWord w).cfg = s.cfg := rfl
@[simp] theorem State.withNextWord_xlateTable (s : State) (w : Iword) : (s.withNextWord w).xlateTable =
    s.xlateTable := rfl
@[simp] theorem State.withNextWord_portAnswers (s : State) (w : Iword) : (s.withNextWord w).portAnswers =
    s.portAnswers := rfl
@[simp] theorem State.withNextWord_ioLog (s : State) (w : Iword) : (s.withNextWord w).ioLog = s.ioLog := rfl
@[simp] theorem State.withNextWord_script (s : State) (w : Iword) : (s.withNextWord w).script = s.script := rfl
@[simp] theorem State.withNextWord_draws (s : State) (w : Iword) : (s.withNextWord w).draws = s.draws := rfl

end Sys2Proof.Machine
end

