-- ==== Sys2Proof/Laws/Memory.lean ====
section
/-! SUPPORT. Laws of the cell lists: read after write, and the canonical form is kept (spec/20_memory.md R52). -/

namespace Sys2Proof.Machine

theorem Memory.find_store_self (m : List Host.Cell) (x : Nat) (v : Byte) : Memory.find (Memory.store m x v) x = some v := by
  induction m with
  | nil => simp [Memory.store, Memory.find]
  | cons c m ih =>
    obtain ⟨a, u⟩ := c
    simp only [Memory.store]
    split
    · simp [Memory.find]
    · split
      · simp [Memory.find]
      · simp [Memory.find, *]

theorem Memory.find_store_ne (m : List Host.Cell) (x y : Nat) (v : Byte) (h : y ≠ x) :
    Memory.find (Memory.store m x v) y = Memory.find m y := by
  induction m with
  | nil => simp [Memory.store, Memory.find, h]
  | cons c m ih =>
    obtain ⟨a, u⟩ := c
    simp only [Memory.store]
    split
    · simp [Memory.find, h]
    · split
      · subst_vars; simp [Memory.find, h]
      · simp [Memory.find, ih]

/-- What a store leaves at an address that takes it: RAM. -/
theorem State.memAfter_ram {s : State} {a : Word} (h : s.kindAt a = .ram) (v : Byte) :
    s.memAfter a v = Memory.store s.mem a.toNat v := by simp [State.memAfter, h]

/-- What a store leaves where there is no RAM: everything. -/
theorem State.memAfter_other {s : State} {a : Word} (h : s.kindAt a ≠ .ram) (v : Byte) : s.memAfter a v = s.mem := by
  unfold State.memAfter; split <;> simp_all

/-- `MemRead` of RAM or ROM is its content. -/
theorem State.busRead_mapped {s : State} {a : Word} (h : s.kindAt a ≠ .unmapped) : s.busRead a = s.readMem a := by
  unfold State.busRead; split <;> simp_all

/-- A cell after a store to it, where it takes one. -/
theorem State.readMem_writeMem_self {s : State} {a : Word} (h : s.kindAt a = .ram) (v : Byte) :
    (s.writeMem a v).readMem a = v := by
  simp [State.readMem, State.memAfter_ram h, Memory.find_store_self]

/-- A cell after a store to another one, or where nothing takes it. -/
theorem State.readMem_writeMem_other {s : State} {a b : Word} (h : b ≠ a ∨ s.kindAt a ≠ .ram) (v : Byte) :
    (s.writeMem a v).readMem b = s.readMem b := by
  by_cases hk : s.kindAt a = .ram
  · have hb : b ≠ a := h.resolve_right (fun h' => h' hk)
    simp [State.readMem, State.memAfter_ram hk, Memory.find_store_ne _ _ _ _ (fun e => hb (BitVec.eq_of_toNat_eq e))]
  · simp [State.readMem, State.memAfter_other hk]

/-- The content of a cell is in `mem` alone. -/
theorem State.readMem_congr {s u : State} (h : u.mem = s.mem) (a : Word) : u.readMem a = s.readMem a := by
  simp [State.readMem, h]

/-- The first address of a cell list is above `n`. -/
def Memory.above (n : Nat) : List Host.Cell → Prop
  | [] => True
  | (a, _) :: _ => n < a

theorem Memory.wf_cons (a : Nat) (u : Byte) (m : List Host.Cell) :
    Memory.wf ((a, u) :: m) = true ↔ a < 65536 ∧ Memory.above a m ∧ Memory.wf m = true := by
  induction m generalizing a u with
  | nil => simp [Memory.wf, Memory.above]
  | cons c m ih =>
    obtain ⟨b, v⟩ := c
    rw [Memory.wf, Bool.and_eq_true, decide_eq_true_eq, ih b v]
    simp only [Memory.above]
    constructor
    · rintro ⟨h, hb, h2, h3⟩; exact ⟨by omega, h, hb, h2, h3⟩
    · rintro ⟨_, h, hb, h2, h3⟩; exact ⟨h, hb, h2, h3⟩

theorem Memory.above_store (m : List Host.Cell) (n x : Nat) (v : Byte) (hm : Memory.above n m) (hx : n < x) :
    Memory.above n (Memory.store m x v) := by
  cases m with
  | nil => exact hx
  | cons c m =>
    obtain ⟨a, u⟩ := c
    simp only [Memory.store]
    split
    · exact hx
    · split
      · exact hx
      · exact hm

/-- A store keeps the canonical form. -/
theorem Memory.wf_store (m : List Host.Cell) (x : Nat) (v : Byte) (hm : Memory.wf m = true) (hx : x < 65536) :
    Memory.wf (Memory.store m x v) = true := by
  induction m with
  | nil => simp [Memory.store, Memory.wf, hx]
  | cons c m ih =>
    obtain ⟨a, u⟩ := c
    have h := (Memory.wf_cons a u m).1 hm
    simp only [Memory.store]
    split
    · exact (Memory.wf_cons ..).2 ⟨hx, ‹x < a›, hm⟩
    · split
      · subst_vars; exact (Memory.wf_cons ..).2 h
      · exact (Memory.wf_cons ..).2 ⟨h.1, Memory.above_store _ _ _ _ h.2.1 (by omega), ih h.2.2⟩

theorem Memory.above_of_wf (m : List Host.Cell) (a n : Nat) (u : Byte) (h : Memory.wf ((a, u) :: m) = true) (hn : n ≤ a) :
    Memory.above n m := by
  cases m with
  | nil => trivial
  | cons c m =>
    have := ((Memory.wf_cons ..).1 h).2.1
    exact Nat.lt_of_le_of_lt hn this

theorem Memory.above_filter (m : List Host.Cell) (n : Nat) (p : Host.Cell → Bool) (hm : Memory.wf m = true)
    (ha : Memory.above n m) : Memory.above n (m.filter p) := by
  induction m with
  | nil => trivial
  | cons c m ih =>
    obtain ⟨a, u⟩ := c
    rw [List.filter_cons]
    split
    · exact ha
    · exact ih ((Memory.wf_cons ..).1 hm).2.2 (Memory.above_of_wf m a n u hm (Nat.le_of_lt ha))

/-- Letting go of cells keeps the canonical form. -/
theorem Memory.wf_filter (m : List Host.Cell) (p : Host.Cell → Bool) (hm : Memory.wf m = true) :
    Memory.wf (m.filter p) = true := by
  induction m with
  | nil => rfl
  | cons c m ih =>
    obtain ⟨a, u⟩ := c
    have h := (Memory.wf_cons a u m).1 hm
    rw [List.filter_cons]
    split
    · exact (Memory.wf_cons ..).2 ⟨h.1, Memory.above_filter m a p h.2.2 h.2.1, ih h.2.2⟩
    · exact ih h.2.2

/-- A store keeps the canonical form of the memory, whatever is at the address. -/
theorem State.memAfter_wf (s : State) (a : Word) (v : Byte) (h : Memory.wf s.mem = true) :
    Memory.wf (s.memAfter a v) = true := by
  by_cases hk : s.kindAt a = .ram
  · rw [State.memAfter_ram hk]; exact Memory.wf_store _ _ _ h a.isLt
  · rw [State.memAfter_other hk]; exact h

/-- `MemWrite` keeps the canonical form of the memory. -/
theorem State.writeMem_wf (s : State) (a : Word) (v : Byte) (h : Memory.wf s.mem = true) :
    Memory.wf (s.writeMem a v).mem = true :=
  s.memAfter_wf a v h

/-- A push keeps the canonical form of the memory. -/
theorem State.pushByte_wf (s : State) (v : Byte) (h : Memory.wf s.mem = true) : Memory.wf (s.pushByte v).mem = true :=
  s.memAfter_wf (s.regs.sp - 1) v h

/-- Interrupt entry keeps the canonical form of the memory. -/
theorem State.interruptEntry_wf (s : State) (k : Irq) (h : Memory.wf s.mem = true) :
    Memory.wf (s.interruptEntry k).mem = true :=
  State.pushByte_wf _ _ (State.pushByte_wf _ _ h)

/-- Prefetching keeps the canonical form of the prefetched bytes. -/
theorem State.heldBytes_wf (s : State) (n : Nat) (h : Memory.wf s.prefetched = true) :
    Memory.wf (s.heldBytes n) = true := by
  induction n with
  | zero => exact h
  | succ n ih => exact Memory.wf_store _ _ _ ih (s.fetchPC + BitVec.ofNat 16 n).isLt

/-- Translating keeps the canonical form of the prefetched bytes. -/
theorem State.translateOne_wf (s : State) (h : Memory.wf s.prefetched = true) :
    Memory.wf s.translateOne.prefetched = true :=
  Memory.wf_filter _ _ h

/-- The memory at reset has the canonical form. -/
theorem reset_mem_wf : Memory.wf State.reset.mem = true := rfl

end Sys2Proof.Machine
end

