-- ==== Sys2Proof/Laws/Registers.lean ====
section
/-! SUPPORT. Laws of the register file: bytes and pairs, what a read gives after a write, aliasing (spec/10_state.md R25
to R29). -/

namespace Sys2Proof.Machine

theorem getLsbD_pair (x y : Byte) (i : Nat) :
    (pair x y).getLsbD i = if i < 8 then y.getLsbD i else x.getLsbD (i - 8) :=
  BitVec.getLsbD_append

@[simp] theorem hi8_pair (x y : Byte) : hi8 (pair x y) = x := by
  apply BitVec.eq_of_getLsbD_eq; intro i hi
  simp [hi8, getLsbD_pair, hi]

@[simp] theorem lo8_pair (x y : Byte) : lo8 (pair x y) = y := by
  apply BitVec.eq_of_getLsbD_eq; intro i hi
  simp [lo8, getLsbD_pair, hi]

@[simp] theorem pair_hi8_lo8 (v : Word) : pair (hi8 v) (lo8 v) = v := by
  apply BitVec.eq_of_getLsbD_eq; intro i hi
  rw [getLsbD_pair]
  by_cases h : i < 8
  · simp [h, lo8]
  · simp [h, hi8, show 8 + (i - 8) = i by omega]; omega

@[simp] theorem lo8_sext16 (v : Byte) : lo8 (sext16 v) = v := by
  apply BitVec.eq_of_getLsbD_eq; intro i hi
  rw [lo8, sext16, BitVec.getLsbD_extractLsb', BitVec.getLsbD_signExtend]
  simp [hi, show i < 16 by omega]

@[simp] theorem lo8_zext16 (v : Byte) : lo8 (zext16 v) = v := by
  apply BitVec.eq_of_getLsbD_eq; intro i hi
  rw [lo8, zext16, BitVec.getLsbD_extractLsb', BitVec.getLsbD_setWidth]
  simp [hi, show i < 16 by omega]

theorem sext16_inj {u v : Byte} : sext16 u = sext16 v ↔ u = v :=
  ⟨fun h => by rw [← lo8_sext16 u, h, lo8_sext16], fun h => by rw [h]⟩

/-- The cell of an 8-bit register, other than R0, after a write to it. -/
theorem Regs.read8_write8_self (g : Regs) (x : Reg8) (v : Byte) (hx : x ≠ .r0) : (g.write8 x v).read8 x = v := by
  cases x <;> first | rfl | exact absurd rfl hx

/-- A write to an 8-bit register leaves every other one. -/
theorem Regs.read8_write8_ne (g : Regs) (x y : Reg8) (v : Byte) (h : y ≠ x) : (g.write8 x v).read8 y = g.read8 y := by
  cases x <;> cases y <;> first | rfl | exact absurd rfl h

/-- A 16-bit register after a write to it, pair view or not. -/
theorem Regs.read16_write16_self (g : Regs) (x : Reg16) (v : Word) : (g.write16 x v).read16 x = v := by
  cases x <;> simp [Regs.write16, Regs.read16]

/-- A write to a 16-bit register leaves every other 16-bit register: no two share storage. -/
theorem Regs.read16_write16_ne (g : Regs) (x y : Reg16) (v : Word) (h : y ≠ x) :
    (g.write16 x v).read16 y = g.read16 y := by
  cases x <;> cases y <;> first | rfl | exact absurd rfl h

@[simp] theorem Regs.write8_r0 (g : Regs) (v : Byte) : g.write8 .r0 v = g := rfl

@[simp] theorem Regs.read8_r0 (g : Regs) : g.read8 .r0 = 0 := rfl

/-- Writing F back changes nothing. -/
@[simp] theorem Regs.write8_f_self (g : Regs) : g.write8 .f g.f = g := rfl

/-- A write to F leaves every 16-bit register but AF. -/
theorem Regs.read16_write8_f (g : Regs) (y : Reg16) (v : Byte) (h : y ≠ .af) : (g.write8 .f v).read16 y = g.read16 y := by
  cases y <;> first | rfl | exact absurd rfl h

/-- F after a write to another destination. -/
theorem Regs.f_write (g : Regs) (o : OpX) (v : Word) (h : o.holdsF = false) : (g.write o v).f = g.f := by
  cases o with
  | byte x => cases x <;> first | rfl | cases h
  | word x => cases x <;> first | rfl | cases h

@[simp] theorem OpW.toX_r0 : OpW.r0.toX = .byte .r0 := rfl

@[simp] theorem OpW.toX_reg (x : Reg16) : (OpW.reg x).toX = .word x := rfl

/-- An `RRx` operand reads as the same specifier does in a place of either width. -/
theorem State.valX_toX (s : State) (o : OpW) : s.valX o.toX = s.valW o := by
  cases o <;> rfl

end Sys2Proof.Machine
end

