-- ==== Sys2Proof/Laws/Operations.lean ====
section
/-! SUPPORT. For each shared operation one lemma that says what it can do, so that proofs cite it and do not unfold it. -/

namespace Sys2Proof.Machine

/-! ### Flags -/

theorem getLsbD_packByte (b7 b6 b5 b4 b3 b2 b1 b0 : Bool) :
    (packByte b7 b6 b5 b4 b3 b2 b1 b0).getLsbD 7 = b7 ∧ (packByte b7 b6 b5 b4 b3 b2 b1 b0).getLsbD 6 = b6 ∧
    (packByte b7 b6 b5 b4 b3 b2 b1 b0).getLsbD 5 = b5 ∧ (packByte b7 b6 b5 b4 b3 b2 b1 b0).getLsbD 4 = b4 ∧
    (packByte b7 b6 b5 b4 b3 b2 b1 b0).getLsbD 3 = b3 ∧ (packByte b7 b6 b5 b4 b3 b2 b1 b0).getLsbD 2 = b2 ∧
    (packByte b7 b6 b5 b4 b3 b2 b1 b0).getLsbD 1 = b1 ∧ (packByte b7 b6 b5 b4 b3 b2 b1 b0).getLsbD 0 = b0 := by
  revert b7 b6 b5 b4 b3 b2 b1 b0; decide

theorem flagFollows_flagBit (fm old new drawn : Byte) (k : Nat) (g : Option Bool)
    (h : new.getLsbD k = flagBit (fm.getLsbD k) g (drawn.getLsbD k) (old.getLsbD k)) : flagFollows fm old new k g := by
  unfold flagFollows
  split
  · rintro v rfl; simp_all [flagBit]
  · simp_all [flagBit]

/-- The merged F follows SetFlags, whatever was drawn. -/
theorem mergeFlags_follows (fm : Byte) (g : Gen) (drawn old : Byte) :
    flagsFollow fm g old (mergeFlags fm g drawn old) := by
  obtain ⟨h7, h6, h5, h4, h3, h2, h1, h0⟩ := getLsbD_packByte
    (flagBit (fm.getLsbD 7) g.s (drawn.getLsbD 7) (old.getLsbD 7)) (flagBit (fm.getLsbD 6) g.z (drawn.getLsbD 6) (old.getLsbD 6))
    (flagBit (fm.getLsbD 5) none (drawn.getLsbD 5) (old.getLsbD 5)) (flagBit (fm.getLsbD 4) g.h (drawn.getLsbD 4) (old.getLsbD 4))
    (flagBit (fm.getLsbD 3) none (drawn.getLsbD 3) (old.getLsbD 3)) (flagBit (fm.getLsbD 2) g.pv (drawn.getLsbD 2) (old.getLsbD 2))
    (flagBit (fm.getLsbD 1) g.n (drawn.getLsbD 1) (old.getLsbD 1)) (flagBit (fm.getLsbD 0) g.c (drawn.getLsbD 0) (old.getLsbD 0))
  exact ⟨flagFollows_flagBit _ _ _ _ _ _ h7, flagFollows_flagBit _ _ _ _ _ _ h6, flagFollows_flagBit _ _ _ _ _ _ h5,
    flagFollows_flagBit _ _ _ _ _ _ h4, flagFollows_flagBit _ _ _ _ _ _ h3, flagFollows_flagBit _ _ _ _ _ _ h2,
    flagFollows_flagBit _ _ _ _ _ _ h1, flagFollows_flagBit _ _ _ _ _ _ h0⟩

/-- With F_mask 0 the merge gives the old F. -/
@[simp] theorem mergeFlags_zero (g : Gen) (drawn old : Byte) : mergeFlags 0#8 g drawn old = old := by
  have h : ∀ o : Byte, packByte (o.getLsbD 7) (o.getLsbD 6) (o.getLsbD 5) (o.getLsbD 4) (o.getLsbD 3) (o.getLsbD 2)
      (o.getLsbD 1) (o.getLsbD 0) = o := by decide
  exact h old

@[simp] theorem needsDraw_zero (g : Gen) : needsDraw 0#8 g = false := rfl

/-- With F_mask 0 SetFlags changes nothing. -/
@[simp] theorem State.setFlags_zero (s : State) (g : Gen) : s.setFlags 0#8 g = s := by
  rw [State.setFlags, mergeFlags_zero, needsDraw_zero]; rfl

/-- F after SetFlags. -/
theorem State.setFlags_f (s : State) (fm : Byte) (g : Gen) :
    (s.setFlags fm g).regs.f = mergeFlags fm g (s.anyByte 0) s.regs.f := rfl

/-- SetFlags touches no register but those that share storage with F. -/
theorem State.setFlags_valX (s : State) (fm : Byte) (g : Gen) (p : OpX) (h : overlaps (.byte .f) p = false) :
    (s.setFlags fm g).valX p = s.valX p := by
  cases p with
  | byte x => cases x <;> first | rfl | cases h
  | word x => cases x <;> first | rfl | cases h

/-! ### Registers -/

/-- A register write leaves every register that shares no storage with the destination. -/
theorem State.putReg_valX (s : State) (o p : OpX) (v : Word) (h : overlaps o p = false) :
    (s.putReg o v).valX p = s.valX p := by
  cases o with
  | byte x => cases p with
    | byte y => cases x <;> cases y <;> first | rfl | cases h
    | word y => cases x <;> cases y <;> first | rfl | cases h
  | word x => cases p with
    | byte y => cases x <;> cases y <;> first | rfl | cases h
    | word y => cases x <;> cases y <;> first | rfl | cases h

/-- A register holds what was written to it. -/
theorem State.putReg_holds (s : State) (o : OpX) (v : Word) : (s.putReg o v).holds o v := by
  cases o with
  | byte x => cases x <;> trivial
  | word x => exact Regs.read16_write16_self ..

/-- A byte write is the register write of its zero extension. -/
theorem State.putByte_eq_putReg (s : State) (x : Reg8) (v : Byte) : s.putByte x v = s.putReg (.byte x) (zext16 v) := by
  simp [State.putByte, State.putReg, Regs.write]

/-! ### Completing an instruction -/

/-- What `retireWrite` can do: it refuses where F would be written twice, else it gives the finished state. -/
theorem State.retireWrite_cases (s : State) (an : Annot) (d : OpX) (g : Gen) :
    (d.holdsF = true ∧ an.fMask ≠ 0 ∧ s.retireWrite an d g = .refused .flagsWrittenTwice) ∨
    ((d.holdsF = true → an.fMask = 0) ∧ s.retireWrite an d g = .next (s.finish an g none)) := by
  unfold State.retireWrite
  split
  · simp_all
  · rename_i h
    right; refine ⟨fun hd => ?_, rfl⟩
    by_contra hf
    exact h (by rw [hd, Bool.true_and, bne_iff_ne]; exact hf)

/-- If `retireWrite` answers a next state, it is the finished state, and F is not written twice. -/
theorem State.retireWrite_next {s t : State} {an : Annot} {d : OpX} {g : Gen} (h : s.retireWrite an d g = .next t) :
    t = s.finish an g none ∧ (d.holdsF = true → an.fMask = 0) := by
  rcases s.retireWrite_cases an d g with ⟨_, _, hr⟩ | ⟨hf, hr⟩
  · rw [hr] at h; cases h
  · rw [hr] at h; cases h; exact ⟨rfl, hf⟩

/-- An instruction that writes no register ends as its own effect, the flags and the window of its EOI. -/
theorem State.finish_none (s : State) (an : Annot) (g : Gen) : s.finish an g none = (s.setFlags an.fMask g).closed an := rfl

/-- A taken transfer ends with the flags, the flush and the window. -/
theorem State.finish_some (s : State) (an : Annot) (g : Gen) (t : Word) :
    s.finish an g (some t) = ((s.setFlags an.fMask g).flush t).window := rfl

/-- `archPC` after PC_disp, as a sum of naturals. -/
theorem State.advance_nextPC (s : State) (an : Annot) : (s.advance an).archPC = s.nextPC an := by
  apply BitVec.eq_of_toNat_eq
  simp [State.nextPC, BitVec.toNat_add, Nat.mod_eq_of_lt (show an.pcDisp.toNat < 65536 by omega)]

/-! ### Interrupts -/

/-- A window without a held interrupt. -/
theorem State.window_none {s : State} (h : s.pend = none) : s.window = { s with eiHold := s.eiHold - 1 } := by
  simp [State.window, State.enterHeld, h]

/-- A window with a held interrupt. -/
theorem State.window_some {s : State} {k : Irq} (h : s.pend = some k) :
    s.window = { s.interruptEntry k with eiHold := s.eiHold - 1 } := by
  simp [State.window, State.enterHeld, h]

/-- What a window can do. -/
theorem State.window_cases (s : State) :
    (s.pend = none ∧ s.window = { s with eiHold := s.eiHold - 1 }) ∨
    (∃ k, s.pend = some k ∧ s.window = { s.interruptEntry k with eiHold := s.eiHold - 1 }) := by
  rcases h : s.pend with _ | k
  · rw [← h]; exact .inl ⟨rfl, State.window_none h⟩
  · exact .inr ⟨k, rfl, State.window_some h⟩

/-- What a reception can do (60_exceptions R226). -/
theorem State.receive_cases (s : State) :
    s.receive = s ∨
    (s.pend = none ∧ s.nmiReq = true ∧ s.receive = { s with pend := some .nmi, iff1 := false }) ∨
    (s.pend = none ∧ s.nmiReq = false ∧ s.intReq = true ∧ s.iff1 = true ∧ s.eiHold = 0 ∧
      s.receive = { s with pend := some .int, iff1 := false }) := by
  unfold State.receive
  split
  · exact .inl rfl
  · split
    · exact .inr (.inl ⟨‹_›, ‹_›, rfl⟩)
    · split
      · rename_i h; simp only [Bool.and_eq_true, beq_iff_eq] at h
        exact .inr (.inr ⟨‹_›, by simp_all, h.1.1, h.1.2, h.2, rfl⟩)
      · exact .inl rfl

/-- Interrupt entry touches SP and the temporaries, no other register. -/
theorem State.interruptEntry_regs (s : State) (k : Irq) :
    (s.interruptEntry k).regs =
      { s.regs with
        sp := s.regs.sp - 1 - 1, t0 := s.anyByte 0, t1 := s.anyByte 1, t2 := s.anyByte 2, t3 := s.anyByte 3 } := rfl

/-- The memory after interrupt entry: two stores. -/
theorem State.interruptEntry_mem (s : State) (k : Irq) :
    (s.interruptEntry k).mem =
      ((s.writeMem (s.regs.sp - 1) (hi8 s.archPC)).writeMem (s.regs.sp - 1 - 1) (lo8 s.archPC)).mem := rfl

/-! ### The environment, the translator and the step -/

/-- A byte the translator holds stays held while it fetches ahead. -/
theorem State.heldBytes_keeps (s : State) (n : Nat) (x : Nat) (v : Byte) (h : Memory.find s.prefetched x = some v) :
    Memory.find (s.heldBytes n) x = some v := by
  induction n with
  | zero => exact h
  | succ n ih =>
    by_cases hx : x = (s.fetchPC + BitVec.ofNat 16 n).toNat
    · subst hx; rw [State.heldBytes, State.holding, ih, Memory.find_store_self]; rfl
    · rw [State.heldBytes, State.holding, Memory.find_store_ne _ _ _ _ hx, ih]

/-- What one translation leaves alone. -/
theorem State.translateOne_eq (s : State) :
    ∃ q f m, s.translateOne = { s with queue := s.queue ++ q, fetchPC := f, prefetched := m, draws := s.draws + 1 } :=
  ⟨_, _, _, rfl⟩

/-- What `n` translations leave alone: everything but the translator's own and the draw counter, and the queue only grows
at its end. -/
theorem State.translateGroups_eq (s : State) (n : Nat) :
    ∃ q f m, s.translateGroups n =
      { s with queue := s.queue ++ q, fetchPC := f, prefetched := m, draws := s.draws + n } := by
  induction n with
  | zero => exact ⟨[], s.fetchPC, s.prefetched, by simp [State.translateGroups]⟩
  | succ n ih =>
    obtain ⟨q, f, m, h⟩ := ih
    obtain ⟨q', f', m', h'⟩ := State.translateOne_eq
      { s with queue := s.queue ++ q, fetchPC := f, prefetched := m, draws := s.draws + n }
    rw [State.translateGroups, h, h']
    exact ⟨q ++ q', f', m', by simp [Nat.add_assoc]⟩

/-- Translating keeps the canonical form. -/
theorem State.translateGroups_wf (s : State) (n : Nat) (h : Memory.wf s.prefetched = true) :
    Memory.wf (s.translateGroups n).prefetched = true := by
  induction n with
  | zero => exact h
  | succ n ih => exact State.translateOne_wf _ ih

/-- Reception changes the held interrupt and IFF1 at most. -/
theorem State.receiveIf_eq (s : State) (b : Bool) : ∃ p f, s.receiveIf b = { s with pend := p, iff1 := f } := by
  unfold State.receiveIf
  split
  · rcases s.receive_cases with h | ⟨_, _, h⟩ | ⟨_, _, _, _, _, h⟩ <;> exact ⟨_, _, h⟩
  · exact ⟨_, _, rfl⟩

/-- What happens before a word is taken changes the inputs, the script, the held interrupt, IFF1, the translator's own and
the draw counter at most, and the queue only grows at its end. -/
theorem State.prepared_eq (s : State) :
    ∃ p f q a m d, s.prepared =
      { s with
        script := s.script.tail, intReq := s.tick.intReq, nmiReq := s.tick.nmiReq, pend := p, iff1 := f,
        queue := s.queue ++ q, fetchPC := a, prefetched := m, draws := d } := by
  unfold State.prepared
  obtain ⟨p, f, h1⟩ := (s.inputsSet s.tick).receiveIf_eq s.tick.receive
  obtain ⟨q, a, m, h2⟩ := State.translateGroups_eq
    (((s.inputsSet s.tick).receiveIf s.tick.receive).prefetchBytes s.tick.prefetch) s.tick.translate
  rw [h2, State.prefetchBytes, h1]
  exact ⟨p, f, q, a, m, _, rfl⟩

/-- Held interrupt and flip-flops when a word is taken: those that reception leaves (60_exceptions R226). -/
theorem State.prepared_received (s : State) :
    s.prepared.pend = ((s.inputsSet s.tick).receiveIf s.tick.receive).pend ∧
    s.prepared.iff1 = ((s.inputsSet s.tick).receiveIf s.tick.receive).iff1 ∧
    s.prepared.iff2 = ((s.inputsSet s.tick).receiveIf s.tick.receive).iff2 := by
  unfold State.prepared
  obtain ⟨q, a, m, h⟩ := State.translateGroups_eq
    (((s.inputsSet s.tick).receiveIf s.tick.receive).prefetchBytes s.tick.prefetch) s.tick.translate
  rw [h]; exact ⟨rfl, rfl, rfl⟩

/-- What a step can do when it answers a next state. -/
theorem step_next {s t : State} (h : step s = .next t) :
    (s.tick.rst = true ∧ t = (s.inputsSet s.tick).resetRoutine) ∨
    (s.tick.rst = false ∧ ∃ i, decode s.cfg.layout s.prepared.nextWord = .ok i ∧ exec i s.prepared.dequeued = .next t) := by
  unfold step at h
  split at h
  · cases h; exact .inl ⟨‹_›, rfl⟩
  · split at h
    · exact .inr ⟨by simp_all, _, ‹_›, h⟩
    · cases h

end Sys2Proof.Machine
end

