-- ==== Sys2Proof/Laws/Completion.lean ====
section
/-! SUPPORT. What the shared ends of the meanings give when they complete: the destination, the flags and the frame. -/

namespace Sys2Proof.Machine

/-- A register other than F and AF keeps what it holds under SetFlags. -/
theorem State.setFlags_holds (s : State) (fm : Byte) (g : Gen) (o : OpX) (v : Word) (ho : o.holdsF = false)
    (h : s.holds o v) : (s.setFlags fm g).holds o v := by
  cases o with
  | byte x => cases x <;> first | exact h | cases ho
  | word x => cases x <;> first | exact h | cases ho

/-- A write of `v` to `o` and SetFlags, where F is not written twice. -/
theorem State.wrote_putReg (s : State) (fm : Byte) (o : OpX) (v : Word) (g : Gen) (hf : o.holdsF = true → fm = 0) :
    wrote s fm o v g ((s.putReg o v).setFlags fm g) := by
  refine ⟨?_, fun p hp hpf => ?_, fun ho => ?_⟩
  · cases ho : o.holdsF with
    | true =>
      have h0 : fm = 0#8 := hf ho
      rw [h0, State.setFlags_zero]; exact State.putReg_holds ..
    | false => exact State.setFlags_holds _ _ _ _ _ ho (State.putReg_holds ..)
  · rw [State.setFlags_valX _ _ _ _ hpf, State.putReg_valX _ _ _ _ hp]
  · rw [State.setFlags_f, State.putReg_regs, Regs.f_write _ _ _ ho]
    exact mergeFlags_follows ..

/-- SetFlags alone. -/
theorem State.keptRegs_setFlags (s : State) (fm : Byte) : keptRegs s fm (s.setFlags fm Gen.dc) :=
  ⟨fun p hp => State.setFlags_valX _ _ _ p hp, mergeFlags_follows ..⟩

/-- What `alu16` gives from a state `s1` where F is not written twice: the state `u` before the window, and the parts of
`s1` it keeps. -/
theorem State.alu16_next (s1 : State) (an : Annot) (o : OpX) (v : Word) (g : Gen)
    (hf : o.holdsF = true → an.fMask = 0) :
    s1.alu16 an o v g = .next (((s1.putReg o v).setFlags an.fMask g).closed an) := by
  unfold State.alu16
  rcases (s1.putReg o v).retireWrite_cases an o g with ⟨h1, h2, _⟩ | ⟨_, h⟩
  · exact absurd (hf h1) h2
  · rw [h, State.finish_none]

/-- `alu8` is `alu16` on the zero-extended byte. -/
theorem State.alu8_eq (s1 : State) (an : Annot) (x : Reg8) (v : Byte) (g : Gen) :
    s1.alu8 an x v g = s1.alu16 an (.byte x) (zext16 v) g := by
  rw [State.alu8, State.alu16, State.putByte_eq_putReg]

/-- An instruction whose meaning ends in `alu16` from the state after PC_disp completes. -/
theorem completesWriting_of_alu16 {i : Instr} {s : State} {o : OpX} {v : Word} {g : Gen} (k : Nat)
    (he : exec i s = ((s.advance i.annot).drew k).alu16 i.annot o v g) (hf : o.holdsF = true → i.annot.fMask = 0) :
    completesWriting i s o v g := by
  refine ⟨(((s.advance i.annot).drew k).putReg o v).setFlags i.annot.fMask g, ?_, ?_, s.advance_nextPC i.annot, fun _ => rfl,
    ⟨rfl, rfl⟩, ⟨rfl, rfl, rfl⟩, ⟨rfl, rfl, rfl⟩, ⟨rfl, rfl, rfl, rfl, rfl, rfl⟩⟩
  · rw [he, State.alu16_next _ _ _ _ _ hf]
  · exact State.wrote_putReg ((s.advance i.annot).drew k) _ _ _ _ hf

/-- An instruction whose meaning is a transfer from the state after PC_disp: taken. -/
theorem completesTaken_of_transfer {i : Instr} {s : State} {c : Bool} {t : Word}
    (he : exec i s = (s.advance i.annot).transfer i.annot c t) (hc : c = true) : completesTaken i s t := by
  subst hc
  refine ⟨((s.advance i.annot).setFlags i.annot.fMask Gen.dc).flush t, he, ?_, rfl, rfl, rfl, rfl, fun _ => rfl, ⟨rfl, rfl⟩,
    ⟨rfl, rfl, rfl⟩, ⟨rfl, rfl, rfl, rfl, rfl, rfl⟩⟩
  exact State.keptRegs_setFlags (s.advance i.annot) _

/-- An instruction whose meaning is a transfer from the state after PC_disp: not taken. -/
theorem completesInPlace_of_transfer {i : Instr} {s : State} {c : Bool} {t : Word}
    (he : exec i s = (s.advance i.annot).transfer i.annot c t) (hc : c = false) : completesInPlace i s := by
  subst hc
  refine ⟨(s.advance i.annot).setFlags i.annot.fMask Gen.dc, he, ?_, s.advance_nextPC i.annot, fun _ => rfl, ⟨rfl, rfl⟩,
    ⟨rfl, rfl, rfl⟩, ⟨rfl, rfl, rfl⟩, ⟨rfl, rfl, rfl, rfl, rfl, rfl⟩⟩
  exact State.keptRegs_setFlags (s.advance i.annot) _

end Sys2Proof.Machine
end

