-- ==== Sys2Proof/Laws/Encoding.lean ====
section
/-! SUPPORT. Field by field, decoding reads back what the three word formats lay down, in every layout that keeps the
fields apart (spec/30_encoding.md R72, R73), and specifiers and selectors are read back as the register or selector they
stand for. -/

namespace Sys2Proof

/-- A field read where it was placed. -/
theorem placed_self {n k : Nat} (x : BitVec n) (h : k + n ≤ 39) : (placed k x).extractLsb' k n = x := by
  apply BitVec.eq_of_getLsbD_eq; intro i hi
  simp only [placed, BitVec.getLsbD_extractLsb', BitVec.getLsbD_shiftLeft, BitVec.getLsbD_setWidth, hi, decide_true,
    Bool.true_and, show k + i < 39 by omega, show ¬ k + i < k by omega, Nat.add_sub_cancel_left, show i < 39 by omega,
    decide_false, Bool.not_false]

/-- A field read beside where it was placed. -/
theorem placed_apart {n k m j : Nat} (x : BitVec n) (h : k + n ≤ j ∨ j + m ≤ k) : (placed k x).extractLsb' j m = 0 := by
  apply BitVec.eq_of_getLsbD_eq; intro i hi
  simp only [placed, BitVec.getLsbD_extractLsb', BitVec.getLsbD_shiftLeft, BitVec.getLsbD_setWidth, BitVec.ofNat_eq_ofNat,
    BitVec.getLsbD_zero]
  rcases h with h | h
  · simp [BitVec.getLsbD_of_ge x (j + i - k) (by omega)]
  · simp [show j + i < k by omega]

theorem placed_apart' {n k m j : Nat} (x : BitVec n) (h : j + m ≤ k ∨ k + n ≤ j) : (placed k x).extractLsb' j m = 0 :=
  placed_apart x h.symm

theorem extract_or {w : Nat} (x y : BitVec w) (k n : Nat) :
    (x ||| y).extractLsb' k n = x.extractLsb' k n ||| y.extractLsb' k n := by
  apply BitVec.eq_of_getLsbD_eq; intro i hi
  simp [hi]

/-- One bit of a word as a field of width 1. -/
theorem getLsbD_of_extract {w k : Nat} {x : BitVec w} {b : Bool} (h : x.extractLsb' k 1 = BitVec.ofBool b) :
    x.getLsbD k = b := by
  have h0 : (x.extractLsb' k 1).getLsbD 0 = b := by rw [h]; cases b <;> rfl
  simpa using h0

theorem fieldsOf_an {y : Config.Layout} {w : Iword} {an : Annot} (h1 : w.extractLsb' y.pcDisp 3 = an.pcDisp)
    (h2 : w.extractLsb' y.fMask 8 = an.fMask) (h3 : w.extractLsb' y.eoi 1 = BitVec.ofBool an.eoi) :
    (fieldsOf y w).an = an := by
  rw [fieldsOf, h1, h2, getLsbD_of_extract h3]

/-- The fields of format RRR lie within the word and apart. -/
theorem Config.Layout.separate_rrr {y : Config.Layout} (h : y.wellFormed = true) : separate y.rrr = true := by
  simp only [Config.Layout.wellFormed, Bool.and_eq_true] at h; exact h.1.1

/-- The fields of format RRI lie within the word and apart. -/
theorem Config.Layout.separate_rri {y : Config.Layout} (h : y.wellFormed = true) : separate y.rri = true := by
  simp only [Config.Layout.wellFormed, Bool.and_eq_true] at h; exact h.1.2

/-- The fields of format RI lie within the word and apart. -/
theorem Config.Layout.separate_ri {y : Config.Layout} (h : y.wellFormed = true) : separate y.ri = true := by
  simp only [Config.Layout.wellFormed, Bool.and_eq_true] at h; exact h.2

/-- What decoding reads from a word of format RRR. -/
theorem fieldsOf_wordRRR {y : Config.Layout} (hy : y.wellFormed = true) (an : Annot) (op : BitVec 6)
    (rd rs rt : BitVec 5) :
    (fieldsOf y (wordRRR y an op rd rs rt)).an = an ∧ (fieldsOf y (wordRRR y an op rd rs rt)).op = op ∧
    (fieldsOf y (wordRRR y an op rd rs rt)).rd = rd ∧ (fieldsOf y (wordRRR y an op rd rs rt)).rs = rs ∧
    (fieldsOf y (wordRRR y an op rd rs rt)).rt = rt := by
  have h := Config.Layout.separate_rrr hy
  simp only [Config.Layout.rrr, separate, List.all_cons, List.all_nil, Bool.and_eq_true, decide_eq_true_eq, Bool.and_true]
    at h
  refine ⟨fieldsOf_an ?_ ?_ ?_, ?_⟩
  all_goals
    simp only [fieldsOf, wordRRR, wordHead, extract_or, h, placed_self, placed_apart, placed_apart', BitVec.or_zero,
      BitVec.zero_or, BitVec.ofNat_eq_ofNat, and_self]

/-- What decoding reads from a word of format RRI. -/
theorem fieldsOf_wordRRI {y : Config.Layout} (hy : y.wellFormed = true) (an : Annot) (op : BitVec 6)
    (rd rs : BitVec 5) (imm : Byte) :
    (fieldsOf y (wordRRI y an op rd rs imm)).an = an ∧ (fieldsOf y (wordRRI y an op rd rs imm)).op = op ∧
    (fieldsOf y (wordRRI y an op rd rs imm)).rd = rd ∧ (fieldsOf y (wordRRI y an op rd rs imm)).rs = rs ∧
    (fieldsOf y (wordRRI y an op rd rs imm)).imm8 = imm := by
  have h := Config.Layout.separate_rri hy
  simp only [Config.Layout.rri, separate, List.all_cons, List.all_nil, Bool.and_eq_true, decide_eq_true_eq, Bool.and_true]
    at h
  refine ⟨fieldsOf_an ?_ ?_ ?_, ?_⟩
  all_goals
    simp only [fieldsOf, wordRRI, wordHead, extract_or, h, placed_self, placed_apart, placed_apart', BitVec.or_zero,
      BitVec.zero_or, BitVec.ofNat_eq_ofNat, and_self]

/-- What decoding reads from a word of format RI. -/
theorem fieldsOf_wordRI {y : Config.Layout} (hy : y.wellFormed = true) (an : Annot) (op : BitVec 6) (rd : BitVec 5)
    (imm : Word) :
    (fieldsOf y (wordRI y an op rd imm)).an = an ∧ (fieldsOf y (wordRI y an op rd imm)).op = op ∧
    (fieldsOf y (wordRI y an op rd imm)).rd = rd ∧ (fieldsOf y (wordRI y an op rd imm)).imm16 = imm := by
  have h := Config.Layout.separate_ri hy
  simp only [Config.Layout.ri, separate, List.all_cons, List.all_nil, Bool.and_eq_true, decide_eq_true_eq, Bool.and_true]
    at h
  refine ⟨fieldsOf_an ?_ ?_ ?_, ?_⟩
  all_goals
    simp only [fieldsOf, wordRI, wordHead, extract_or, h, placed_self, placed_apart, placed_apart', BitVec.or_zero,
      BitVec.zero_or, BitVec.ofNat_eq_ofNat, and_self]

@[simp] theorem field8_spec (x : Reg8) : field8 x.spec = .ok x := by cases x <;> rfl

@[simp] theorem fieldX_spec (x : OpX) : fieldX x.spec = .ok x := by
  cases x with
  | byte y => cases y <;> rfl
  | word y => cases y <;> rfl

@[simp] theorem fieldW_spec (x : OpW) : fieldW x.spec = .ok x := by
  cases x with
  | r0 => rfl
  | reg y => cases y <;> rfl

@[simp] theorem shiftSelOf_code (x : ShiftSel) : shiftSelOf x.code = .ok x := by cases x <;> rfl

/-- `checked` accepts a well-formed instruction and no other. -/
theorem checked_wellFormed {i : Instr} (h : i.wellFormed = true) : checked i = .ok i := by simp [checked, h]

end Sys2Proof
end

