-- ==== Sys2Proof/Laws/Exec.lean ====
section
/-! SUPPORT. Says once what an instruction can do: if `exec` answers a next state, that state is the instruction's own
effect `u` followed by steps 5 to 7 of the common sequence, and `Core` is all that `u` can differ in. -/

namespace Sys2Proof.Machine

/-- What an instruction's own effect (steps 2 to 4 of 30_encoding R80) may change in `s` to give `u`. -/
structure Core (i : Instr) (s u : State) : Prop where
  archPC : u.archPC = s.nextPC i.annot
  pend : u.pend = s.pend
  intReq : u.intReq = s.intReq
  nmiReq : u.nmiReq = s.nmiReq
  cfg : u.cfg = s.cfg
  xlateTable : u.xlateTable = s.xlateTable
  script : u.script = s.script
  fetchPC : u.fetchPC = s.fetchPC
  queue : u.queue = s.queue
  prefetched : u.prefetched = s.prefetched
  regs : ∀ p, (∀ d, i.dest = some d → overlaps d p = false) → u.valX p = s.valX p
  mem : isStore i = false → u.mem = s.mem
  memWf : Memory.wf s.mem = true → Memory.wf u.mem = true
  iff : writesIff i = false → u.iff1 = s.iff1 ∧ u.iff2 = s.iff2 ∧ u.eiHold = s.eiHold
  hold : u.eiHold = s.eiHold ∨ u.eiHold = s.cfg.eiDelay ∨ u.eiHold = 0
  io : isIo i = false → u.ioLog = s.ioLog ∧ u.portAnswers = s.portAnswers
  log : ∃ evs, u.ioLog = s.ioLog ++ evs ∧ evs.length ≤ 1

/-- The next state of an instruction: its own effect, then flags, flush and window; only a transfer is taken. -/
def ExecNext (i : Instr) (s t : State) : Prop :=
  ∃ u g taken, Core i s u ∧ t = u.finish i.annot g taken ∧ (taken.isSome = true → isTransfer i = true)

theorem execNext_of_alu16 {i : Instr} {s t : State} {o : OpX} {v : Word} {g : Gen} (k : Nat) (hd : i.dest = some o)
    (h : ((s.advance i.annot).drew k).alu16 i.annot o v g = .next t) : ExecNext i s t := by
  refine ⟨((s.advance i.annot).drew k).putReg o v, g, none, ?_, (State.retireWrite_next h).1, nofun⟩
  exact
    { archPC := s.advance_nextPC i.annot, pend := rfl, intReq := rfl, nmiReq := rfl, cfg := rfl, xlateTable := rfl, script := rfl,
      fetchPC := rfl, queue := rfl, prefetched := rfl
      regs := fun p hp => State.putReg_valX ((s.advance i.annot).drew k) o p v (hp o hd)
      mem := fun _ => rfl, memWf := id, iff := fun _ => ⟨rfl, rfl, rfl⟩, hold := .inl rfl, io := fun _ => ⟨rfl, rfl⟩
      log := ⟨[], by simp, by simp⟩ }

theorem execNext_of_alu8 {i : Instr} {s t : State} {x : Reg8} {v : Byte} {g : Gen} (k : Nat) (hd : i.dest = some (.byte x))
    (h : ((s.advance i.annot).drew k).alu8 i.annot x v g = .next t) : ExecNext i s t :=
  execNext_of_alu16 k hd (State.alu8_eq .. ▸ h)

theorem execNext_of_transfer {i : Instr} {s t : State} {c : Bool} {a : Word} (hi : isTransfer i = true)
    (h : (s.advance i.annot).transfer i.annot c a = .next t) : ExecNext i s t := by
  cases h
  refine ⟨s.advance i.annot, _, _, ?_, rfl, fun _ => hi⟩
  exact
    { archPC := s.advance_nextPC i.annot, pend := rfl, intReq := rfl, nmiReq := rfl, cfg := rfl, xlateTable := rfl, script := rfl,
      fetchPC := rfl, queue := rfl, prefetched := rfl, regs := fun _ _ => rfl
      mem := fun _ => rfl, memWf := id, iff := fun _ => ⟨rfl, rfl, rfl⟩, hold := .inl rfl, io := fun _ => ⟨rfl, rfl⟩
      log := ⟨[], by simp [State.advance], by simp⟩ }

/-- The inversion of `exec`. -/
theorem exec_next {i : Instr} {s t : State} (h : exec i s = .next t) : ExecNext i s t := by
  cases i with
  | add an rd rs rt => exact execNext_of_alu8 0 rfl h
  | addi an rd rs imm => exact execNext_of_alu8 0 rfl h
  | sub an rd rs rt => exact execNext_of_alu8 0 rfl h
  | add16 an rd rs rt => exact execNext_of_alu16 0 rfl h
  | addi16 an rd rs imm => exact execNext_of_alu16 0 rfl h
  | sub16 an rd rs rt => exact execNext_of_alu16 0 rfl h
  | and an rd rs rt => exact execNext_of_alu16 0 rfl h
  | andi an rd rs imm => exact execNext_of_alu16 0 rfl h
  | or an rd rs rt => exact execNext_of_alu16 0 rfl h
  | ori an rd rs imm => exact execNext_of_alu16 0 rfl h
  | xor an rd rs rt => exact execNext_of_alu16 0 rfl h
  | xori an rd rs imm => exact execNext_of_alu16 0 rfl h
  | not an rd rs => exact execNext_of_alu16 0 rfl h
  | shiftrotate an rd rs sel => exact execNext_of_alu8 0 rfl h
  | get4 an rd rs imm => exact execNext_of_alu8 0 rfl h
  | merge44 an rd rs rt => exact execNext_of_alu8 0 rfl h
  | mvPC an rd => exact execNext_of_alu16 0 rfl h
  | daa an rd rs => exact execNext_of_alu8 0 rfl h
  | getbit an rd rs imm =>
    change execGetbit an rd rs imm s = .next t at h
    unfold execGetbit at h
    split at h
    · exact execNext_of_alu8 0 rfl h
    · exact execNext_of_alu8 1 rfl h
  | ngetbit an rd rs imm =>
    change execNgetbit an rd rs imm s = .next t at h
    unfold execNgetbit at h
    split at h
    · exact execNext_of_alu8 0 rfl h
    · exact execNext_of_alu8 1 rfl h
  | setbit an rd rs imm =>
    change execSetbit an rd rs imm s = .next t at h
    unfold execSetbit at h
    split at h
    · exact execNext_of_alu8 0 rfl h
    · exact execNext_of_alu8 1 rfl h
  | nsetbit an rd rs imm =>
    change execNsetbit an rd rs imm s = .next t at h
    unfold execNsetbit at h
    split at h
    · exact execNext_of_alu8 0 rfl h
    · exact execNext_of_alu8 1 rfl h
  | limm an rd imm => exact execNext_of_alu16 0 rfl h
  | ei an =>
    cases h
    refine ⟨{ s.advance an with iff1 := true, iff2 := true, eiHold := s.cfg.eiDelay }, _, _, ?_, rfl, nofun⟩
    exact
      { archPC := s.advance_nextPC an, pend := rfl, intReq := rfl, nmiReq := rfl, cfg := rfl, xlateTable := rfl, script := rfl,
        fetchPC := rfl, queue := rfl, prefetched := rfl, regs := fun _ _ => rfl, mem := fun _ => rfl, memWf := id
        iff := nofun, hold := .inr (.inl rfl), io := fun _ => ⟨rfl, rfl⟩, log := ⟨[], by simp, by simp⟩ }
  | di an =>
    cases h
    refine ⟨{ s.advance an with iff1 := false, iff2 := false, eiHold := 0 }, _, _, ?_, rfl, nofun⟩
    exact
      { archPC := s.advance_nextPC an, pend := rfl, intReq := rfl, nmiReq := rfl, cfg := rfl, xlateTable := rfl, script := rfl,
        fetchPC := rfl, queue := rfl, prefetched := rfl, regs := fun _ _ => rfl, mem := fun _ => rfl, memWf := id
        iff := nofun, hold := .inr (.inr rfl), io := fun _ => ⟨rfl, rfl⟩, log := ⟨[], by simp, by simp⟩ }
  | im an imm =>
    cases h
    refine ⟨s.advance an, _, _, ?_, rfl, nofun⟩
    exact
      { archPC := s.advance_nextPC an, pend := rfl, intReq := rfl, nmiReq := rfl, cfg := rfl, xlateTable := rfl, script := rfl,
        fetchPC := rfl, queue := rfl, prefetched := rfl, regs := fun _ _ => rfl, mem := fun _ => rfl, memWf := id
        iff := fun _ => ⟨rfl, rfl, rfl⟩, hold := .inl rfl, io := fun _ => ⟨rfl, rfl⟩, log := ⟨[], by simp, by simp⟩ }
  | subi an rd rs imm => exact execNext_of_alu8 0 rfl h
  | subi16 an rd rs imm => exact execNext_of_alu16 0 rfl h
  | mvIff an rd imm =>
    change execMvIff an rd imm s = .next t at h
    unfold execMvIff at h
    split at h
    · exact execNext_of_alu16 0 rfl h
    · split at h
      · exact execNext_of_alu16 0 rfl h
      · exact execNext_of_alu16 1 rfl h
  | j an imm => exact execNext_of_transfer rfl h
  | jr an ra => exact execNext_of_transfer rfl h
  | jc an ra imm => exact execNext_of_transfer rfl h
  | jrc an ra rb => exact execNext_of_transfer rfl h
  | bne an ra rb imm => exact execNext_of_transfer rfl h
  | beq an ra rb imm => exact execNext_of_transfer rfl h
  | ld an rd rb imm => exact execNext_of_alu8 (s.openReads (s.dataAddr rb imm)) rfl h
  | st an ra rb imm =>
    cases h
    refine ⟨(s.advance an).writeMem (s.dataAddr rb imm) (s.val8 ra), _, _, ?_, rfl, nofun⟩
    exact
      { archPC := s.advance_nextPC an, pend := rfl, intReq := rfl, nmiReq := rfl, cfg := rfl, xlateTable := rfl, script := rfl,
        fetchPC := rfl, queue := rfl, prefetched := rfl, regs := fun _ _ => rfl, mem := nofun
        memWf := fun hw => State.writeMem_wf (s.advance an) _ _ hw
        iff := fun _ => ⟨rfl, rfl, rfl⟩, hold := .inl rfl, io := fun _ => ⟨rfl, rfl⟩, log := ⟨[], by simp, by simp⟩ }
  | inp an rd rs imm =>
    refine ⟨((s.advance an).portRead (s.portNum rs imm)).putByte rd s.portData, _, none, ?_, (State.retireWrite_next h).1, nofun⟩
    exact
      { archPC := s.advance_nextPC an, pend := rfl, intReq := rfl, nmiReq := rfl, cfg := rfl, xlateTable := rfl, script := rfl,
        fetchPC := rfl, queue := rfl, prefetched := rfl
        regs := fun p hp => by
          rw [State.putByte_eq_putReg, State.putReg_valX _ _ _ _ (hp _ rfl)]; rfl
        mem := fun _ => rfl, memWf := id
        iff := fun _ => ⟨rfl, rfl, rfl⟩, hold := .inl rfl, io := nofun, log := ⟨[_], rfl, Nat.le_refl 1⟩ }
  | out an ra rs imm =>
    cases h
    refine ⟨(s.advance an).portWrite (s.portNum rs imm) (s.val8 ra), _, _, ?_, rfl, nofun⟩
    exact
      { archPC := s.advance_nextPC an, pend := rfl, intReq := rfl, nmiReq := rfl, cfg := rfl, xlateTable := rfl, script := rfl,
        fetchPC := rfl, queue := rfl, prefetched := rfl, regs := fun _ _ => rfl, mem := fun _ => rfl, memWf := id
        iff := fun _ => ⟨rfl, rfl, rfl⟩, hold := .inl rfl, io := nofun, log := ⟨[_], rfl, Nat.le_refl 1⟩ }

end Sys2Proof.Machine
end

