-- ==== Sys2Proof/Laws/PerInstr.lean ====
section
/-! SUPPORT. Laws stated for every instruction, one lemma for each constructor. -/

namespace Sys2Proof.Laws.EncodedHead

/-- The OP value of an instruction (spec/30_encoding.md R77). -/
def opcode : Instr → BitVec 6
  | .add _ _ _ _ => 0x00
  | .addi _ _ _ _ => 0x01
  | .sub _ _ _ _ => 0x02
  | .add16 _ _ _ _ => 0x03
  | .addi16 _ _ _ _ => 0x04
  | .sub16 _ _ _ _ => 0x05
  | .and _ _ _ _ => 0x06
  | .andi _ _ _ _ => 0x07
  | .or _ _ _ _ => 0x08
  | .ori _ _ _ _ => 0x09
  | .xor _ _ _ _ => 0x0A
  | .xori _ _ _ _ => 0x0B
  | .not _ _ _ => 0x0C
  | .shiftrotate _ _ _ _ => 0x0D
  | .get4 _ _ _ _ => 0x0E
  | .merge44 _ _ _ _ => 0x0F
  | .mvPC _ _ => 0x10
  | .daa _ _ _ => 0x11
  | .getbit _ _ _ _ => 0x12
  | .ngetbit _ _ _ _ => 0x13
  | .setbit _ _ _ _ => 0x14
  | .nsetbit _ _ _ _ => 0x15
  | .limm _ _ _ => 0x16
  | .ei _ => 0x17
  | .di _ => 0x18
  | .im _ _ => 0x19
  | .subi _ _ _ _ => 0x1A
  | .subi16 _ _ _ _ => 0x1B
  | .mvIff _ _ _ => 0x1C
  | .j _ _ => 0x20
  | .jr _ _ => 0x21
  | .jc _ _ _ => 0x22
  | .jrc _ _ _ => 0x23
  | .bne _ _ _ _ => 0x24
  | .beq _ _ _ _ => 0x25
  | .ld _ _ _ _ => 0x30
  | .st _ _ _ _ => 0x31
  | .inp _ _ _ _ => 0x32
  | .out _ _ _ _ => 0x33

/-- In every layout that keeps the fields apart, the word of the instruction carries its annotation and its opcode where
the decoder reads them. -/
def Statement (i : Instr) : Prop :=
  ∀ y : Config.Layout, y.wellFormed = true →
    (fieldsOf y (encode y i)).an = i.annot ∧ (fieldsOf y (encode y i)).op = opcode i

theorem add (an : Annot) (rd rs rt : Reg8) : Statement (.add an rd rs rt) := fun _ hy =>
  have h := fieldsOf_wordRRR hy an 0x00 _ _ _
  ⟨h.1, h.2.1⟩

theorem addi (an : Annot) (rd rs : Reg8) (imm : Byte) : Statement (.addi an rd rs imm) := fun _ hy =>
  have h := fieldsOf_wordRRI hy an 0x01 _ _ _
  ⟨h.1, h.2.1⟩

theorem sub (an : Annot) (rd rs rt : Reg8) : Statement (.sub an rd rs rt) := fun _ hy =>
  have h := fieldsOf_wordRRR hy an 0x02 _ _ _
  ⟨h.1, h.2.1⟩

theorem add16 (an : Annot) (rd rs rt : OpW) : Statement (.add16 an rd rs rt) := fun _ hy =>
  have h := fieldsOf_wordRRR hy an 0x03 _ _ _
  ⟨h.1, h.2.1⟩

theorem addi16 (an : Annot) (rd rs : OpW) (imm : Byte) : Statement (.addi16 an rd rs imm) := fun _ hy =>
  have h := fieldsOf_wordRRI hy an 0x04 _ _ _
  ⟨h.1, h.2.1⟩

theorem sub16 (an : Annot) (rd rs rt : OpW) : Statement (.sub16 an rd rs rt) := fun _ hy =>
  have h := fieldsOf_wordRRR hy an 0x05 _ _ _
  ⟨h.1, h.2.1⟩

theorem and (an : Annot) (rd rs rt : OpX) : Statement (.and an rd rs rt) := fun _ hy =>
  have h := fieldsOf_wordRRR hy an 0x06 _ _ _
  ⟨h.1, h.2.1⟩

theorem andi (an : Annot) (rd rs : OpX) (imm : Byte) : Statement (.andi an rd rs imm) := fun _ hy =>
  have h := fieldsOf_wordRRI hy an 0x07 _ _ _
  ⟨h.1, h.2.1⟩

theorem or (an : Annot) (rd rs rt : OpX) : Statement (.or an rd rs rt) := fun _ hy =>
  have h := fieldsOf_wordRRR hy an 0x08 _ _ _
  ⟨h.1, h.2.1⟩

theorem ori (an : Annot) (rd rs : OpX) (imm : Byte) : Statement (.ori an rd rs imm) := fun _ hy =>
  have h := fieldsOf_wordRRI hy an 0x09 _ _ _
  ⟨h.1, h.2.1⟩

theorem xor (an : Annot) (rd rs rt : OpX) : Statement (.xor an rd rs rt) := fun _ hy =>
  have h := fieldsOf_wordRRR hy an 0x0A _ _ _
  ⟨h.1, h.2.1⟩

theorem xori (an : Annot) (rd rs : OpX) (imm : Byte) : Statement (.xori an rd rs imm) := fun _ hy =>
  have h := fieldsOf_wordRRI hy an 0x0B _ _ _
  ⟨h.1, h.2.1⟩

theorem not (an : Annot) (rd rs : OpX) : Statement (.not an rd rs) := fun _ hy =>
  have h := fieldsOf_wordRRI hy an 0x0C _ _ _
  ⟨h.1, h.2.1⟩

theorem shiftrotate (an : Annot) (rd rs : Reg8) (sel : ShiftSel) : Statement (.shiftrotate an rd rs sel) := fun _ hy =>
  have h := fieldsOf_wordRRI hy an 0x0D _ _ _
  ⟨h.1, h.2.1⟩

theorem get4 (an : Annot) (rd rs : Reg8) (imm : Byte) : Statement (.get4 an rd rs imm) := fun _ hy =>
  have h := fieldsOf_wordRRI hy an 0x0E _ _ _
  ⟨h.1, h.2.1⟩

theorem merge44 (an : Annot) (rd rs rt : Reg8) : Statement (.merge44 an rd rs rt) := fun _ hy =>
  have h := fieldsOf_wordRRR hy an 0x0F _ _ _
  ⟨h.1, h.2.1⟩

theorem mvPC (an : Annot) (rd : OpW) : Statement (.mvPC an rd) := fun _ hy =>
  have h := fieldsOf_wordRRI hy an 0x10 _ _ _
  ⟨h.1, h.2.1⟩

theorem daa (an : Annot) (rd rs : Reg8) : Statement (.daa an rd rs) := fun _ hy =>
  have h := fieldsOf_wordRRI hy an 0x11 _ _ _
  ⟨h.1, h.2.1⟩

theorem getbit (an : Annot) (rd rs : Reg8) (imm : Byte) : Statement (.getbit an rd rs imm) := fun _ hy =>
  have h := fieldsOf_wordRRI hy an 0x12 _ _ _
  ⟨h.1, h.2.1⟩

theorem ngetbit (an : Annot) (rd rs : Reg8) (imm : Byte) : Statement (.ngetbit an rd rs imm) := fun _ hy =>
  have h := fieldsOf_wordRRI hy an 0x13 _ _ _
  ⟨h.1, h.2.1⟩

theorem setbit (an : Annot) (rd rs : Reg8) (imm : Byte) : Statement (.setbit an rd rs imm) := fun _ hy =>
  have h := fieldsOf_wordRRI hy an 0x14 _ _ _
  ⟨h.1, h.2.1⟩

theorem nsetbit (an : Annot) (rd rs : Reg8) (imm : Byte) : Statement (.nsetbit an rd rs imm) := fun _ hy =>
  have h := fieldsOf_wordRRI hy an 0x15 _ _ _
  ⟨h.1, h.2.1⟩

theorem limm (an : Annot) (rd : OpX) (imm : Word) : Statement (.limm an rd imm) := fun _ hy =>
  have h := fieldsOf_wordRI hy an 0x16 _ _
  ⟨h.1, h.2.1⟩

theorem ei (an : Annot) : Statement (.ei an) := fun _ hy =>
  have h := fieldsOf_wordRRR hy an 0x17 _ _ _
  ⟨h.1, h.2.1⟩

theorem di (an : Annot) : Statement (.di an) := fun _ hy =>
  have h := fieldsOf_wordRRR hy an 0x18 _ _ _
  ⟨h.1, h.2.1⟩

theorem im (an : Annot) (imm : Word) : Statement (.im an imm) := fun _ hy =>
  have h := fieldsOf_wordRI hy an 0x19 _ _
  ⟨h.1, h.2.1⟩

theorem subi (an : Annot) (rd rs : Reg8) (imm : Byte) : Statement (.subi an rd rs imm) := fun _ hy =>
  have h := fieldsOf_wordRRI hy an 0x1A _ _ _
  ⟨h.1, h.2.1⟩

theorem subi16 (an : Annot) (rd rs : OpW) (imm : Byte) : Statement (.subi16 an rd rs imm) := fun _ hy =>
  have h := fieldsOf_wordRRI hy an 0x1B _ _ _
  ⟨h.1, h.2.1⟩

theorem mvIff (an : Annot) (rd : OpX) (imm : Byte) : Statement (.mvIff an rd imm) := fun _ hy =>
  have h := fieldsOf_wordRRI hy an 0x1C _ _ _
  ⟨h.1, h.2.1⟩

theorem j (an : Annot) (imm : Word) : Statement (.j an imm) := fun _ hy =>
  have h := fieldsOf_wordRI hy an 0x20 _ _
  ⟨h.1, h.2.1⟩

theorem jr (an : Annot) (ra : OpW) : Statement (.jr an ra) := fun _ hy =>
  have h := fieldsOf_wordRI hy an 0x21 _ _
  ⟨h.1, h.2.1⟩

theorem jc (an : Annot) (ra : OpX) (imm : Word) : Statement (.jc an ra imm) := fun _ hy =>
  have h := fieldsOf_wordRI hy an 0x22 _ _
  ⟨h.1, h.2.1⟩

theorem jrc (an : Annot) (ra : OpX) (rb : OpW) : Statement (.jrc an ra rb) := fun _ hy =>
  have h := fieldsOf_wordRRI hy an 0x23 _ _ _
  ⟨h.1, h.2.1⟩

theorem bne (an : Annot) (ra rb : OpX) (imm : Byte) : Statement (.bne an ra rb imm) := fun _ hy =>
  have h := fieldsOf_wordRRI hy an 0x24 _ _ _
  ⟨h.1, h.2.1⟩

theorem beq (an : Annot) (ra rb : OpX) (imm : Byte) : Statement (.beq an ra rb imm) := fun _ hy =>
  have h := fieldsOf_wordRRI hy an 0x25 _ _ _
  ⟨h.1, h.2.1⟩

theorem ld (an : Annot) (rd : Reg8) (rb : OpW) (imm : Byte) : Statement (.ld an rd rb imm) := fun _ hy =>
  have h := fieldsOf_wordRRI hy an 0x30 _ _ _
  ⟨h.1, h.2.1⟩

theorem st (an : Annot) (ra : Reg8) (rb : OpW) (imm : Byte) : Statement (.st an ra rb imm) := fun _ hy =>
  have h := fieldsOf_wordRRI hy an 0x31 _ _ _
  ⟨h.1, h.2.1⟩

theorem inp (an : Annot) (rd rs : Reg8) (imm : Byte) : Statement (.inp an rd rs imm) := fun _ hy =>
  have h := fieldsOf_wordRRI hy an 0x32 _ _ _
  ⟨h.1, h.2.1⟩

theorem out (an : Annot) (ra rs : Reg8) (imm : Byte) : Statement (.out an ra rs imm) := fun _ hy =>
  have h := fieldsOf_wordRRI hy an 0x33 _ _ _
  ⟨h.1, h.2.1⟩

end Sys2Proof.Laws.EncodedHead
end

