-- ==== Sys2Proof/Tests/Slice0.lean ====
section
/-! SUPPORT. Tests: ill-formed terms are refused, words written out decode to the instructions they stand for, single
steps give the values of spec/95_test_vectors.md, and for every statement with hypotheses a witness that meets them. -/

namespace Sys2Proof.Tests
open Sys2Proof.Machine

/-- An annotation. -/
def an (pd : BitVec 3) (fm : Byte) (eoi : Bool) : Annot := { pcDisp := pd, fMask := fm, eoi := eoi }

/-- The state after reset with some registers written. -/
def given (l : List (OpX × Word)) : State := l.foldl (fun s p => s.putReg p.1 p.2) State.reset

/-- The step that runs the word `w` in `s` answers a next state for which `ok` holds. -/
def runs (w : Iword) (s : State) (ok : State → Bool) : Bool :=
  match step (s.withNextWord w) with
  | .next t => ok t
  | _ => false

/-- `exec` answers a next state for which `ok` holds. -/
def does (i : Instr) (s : State) (ok : State → Bool) : Bool :=
  match exec i s with
  | .next t => ok t
  | _ => false

/-! ### WellFormed: the one check, over F and over AF -/

theorem test_illFormed_f : (Instr.add (an 0 0x01 false) .f .a .b).wellFormed = false := by decide

theorem test_illFormed_af : (Instr.limm (an 0 0x80 false) (.word .af) 0x1234).wellFormed = false := by decide

theorem test_wellFormed_f_unmasked : (Instr.setbit (an 0 0 false) .f .t0 0).wellFormed = true := by decide

theorem test_wellFormed_no_dest : (Instr.st (an 0 0xFF true) .f .r0 0).wellFormed = true := by decide

/-! ### LAYOUT: the default is well formed, overlapping fields or a field beyond bit 38 are not -/

theorem test_layout_default : layoutR72.wellFormed = true := by decide

theorem test_layout_overlap : { layoutR72 with rs := 12 }.wellFormed = false := by decide

theorem test_layout_beyond : { layoutR72 with pcDisp := 37 }.wellFormed = false := by decide

/-- Another layout: the fields of R72 from the least significant bit up. -/
def layoutUp : Config.Layout :=
  { pcDisp := 0, fMask := 3, eoi := 11, op := 12, rd := 18, rs := 23, rt := 28, imm8 := 31, imm16 := 23 }

theorem test_layout_up :
    layoutUp.wellFormed = true ∧
      decode layoutUp (encode layoutUp (.limm (an 3 0 true) (.word .hl) 0x1234)) =
        .ok (.limm (an 3 0 true) (.word .hl) 0x1234) := by decide

/-- The bits each opcode uses, in the default layout: the masks worked out from the tables of 30_encoding R72 and R79. -/
theorem test_usedBits :
    Claims.usedBits layoutR72 0x00 = 0x7FFFFFFFC0 ∧ Claims.usedBits layoutR72 0x01 = 0x7FFFFFF8FF ∧
      Claims.usedBits layoutR72 0x0C = 0x7FFFFFF800 ∧ Claims.usedBits layoutR72 0x10 = 0x7FFFFF0000 ∧
      Claims.usedBits layoutR72 0x1C = 0x7FFFFF00FF ∧ Claims.usedBits layoutR72 0x16 = 0x7FFFFFFFFF ∧
      Claims.usedBits layoutR72 0x19 = 0x7FFFE0FFFF ∧ Claims.usedBits layoutR72 0x17 = 0x7FFFE00000 := by decide

/-! ### Words to refuse: 95_test_vectors.md W1 to W11 -/

theorem test_refuse_W1 : decode layoutR72 0x0003A00000#39 = .error .reservedOpcode := by decide

theorem test_refuse_W2 : decode layoutR72 0x0004C00000#39 = .error .reservedOpcode := by decide

theorem test_refuse_W3 : decode layoutR72 0x0007E00000#39 = .error .reservedOpcode := by decide

theorem test_refuse_W4 : decode layoutR72 0x00000C7840#39 = .error .unassignedRegister := by decide

theorem test_refuse_W5 : decode layoutR72 0x000078B400#39 = .error .unassignedRegister := by decide

theorem test_refuse_W6 : decode layoutR72 0x0000187840#39 = .error .operandClass := by decide

theorem test_refuse_W7 : decode layoutR72 0x000078C3C0#39 = .error .operandClass := by decide

theorem test_refuse_W8 : decode layoutR72 0x00060F0800#39 = .error .operandClass := by decide

theorem test_refuse_W9 : decode layoutR72 0x0001AF780C#39 = .error .shiftSelector := by decide

theorem test_refuse_W10 : decode layoutR72 0x00100D7840#39 = .error .flagsWrittenTwice := by decide

theorem test_refuse_W11 : decode layoutR72 0x0802DC1234#39 = .error .flagsWrittenTwice := by decide

/-- Several REFUSE cases at once: the first field refused gives the reason (log 39). -/
theorem test_refuse_first : decode layoutR72 0x0000186040#39 = .error .operandClass ∧
    decode layoutR72 0x00000CC040#39 = .error .unassignedRegister := by decide

/-! ### Unused fields: the three words of 95_test_vectors.md part 2.1 -/

theorem test_unused_ei : decode layoutR72 0x0002EC0000#39 = .ok (.ei (an 0 0 false)) := by decide

theorem test_unused_mvPC : decode layoutR72 0x000218E800#39 = .ok (.mvPC (an 0 0 false) (.reg .hl)) := by decide

theorem test_unused_add : decode layoutR72 0x00000F787F#39 = .ok (.add (an 0 0 false) .a .a .b) := by decide

theorem test_decodeTableWord : decodeTableWord 40 0x300AD81234 = some (.limm (an 3 0 true) (.word .hl) 0x1234) := by decide

/-- An instruction word has 39 bits: a number with bit 39 set is none. -/
theorem test_decodeTableWord_bit39 : decodeTableWord 40 0x8000000000 = none := by decide

/-! ### Decoding: for every constructor one word of 95_test_vectors.md part 2 -/

/-- A1: `add A, A, B [fm=0xD7]`. -/
theorem test_decode_add : decode layoutR72 0x0D700F7840#39 = .ok (.add (an 0 0xD7 false) .a .a .b) := by decide

/-- A9: `addi A, A, 0xFF [fm=0xD7]`. -/
theorem test_decode_addi : decode layoutR72 0x0D702F78FF#39 = .ok (.addi (an 0 0xD7 false) .a .a 0xFF) := by decide

/-- A10: `sub A, A, B [fm=0xD7]`. -/
theorem test_decode_sub : decode layoutR72 0x0D704F7840#39 = .ok (.sub (an 0 0xD7 false) .a .a .b) := by decide

/-- B5: `add16 IX, IX, BC`. -/
theorem test_decode_add16 : decode layoutR72 0x0000718C00#39 = .ok (.add16 (an 0 0 false) (.reg .ix) (.reg .ix) (.reg .bc)) := by decide

/-- B7: `addi16 SP, SP, 0xFE [fm=0xD7]`. -/
theorem test_decode_addi16 : decode layoutR72 0x0D7099C8FE#39 = .ok (.addi16 (an 0 0xD7 false) (.reg .sp) (.reg .sp) 0xFE) := by decide

/-- B10: `sub16 HL, HL, DE [fm=0xD7]`. -/
theorem test_decode_sub16 : decode layoutR72 0x0D70B8C500#39 = .ok (.sub16 (an 0 0xD7 false) (.reg .hl) (.reg .hl) (.reg .de)) := by decide

/-- L3: `and HL, A, BC [fm=0xD7]`. -/
theorem test_decode_and : decode layoutR72 0x0D70D87C00#39 = .ok (.and (an 0 0xD7 false) (.word .hl) (.byte .a) (.word .bc)) := by decide

/-- L6: `andi HL, HL, 0xF0`. -/
theorem test_decode_andi : decode layoutR72 0x0000F8C0F0#39 = .ok (.andi (an 0 0 false) (.word .hl) (.word .hl) 0xF0) := by decide

/-- L10: `or A, HL, R0 [fm=0xD7]`. -/
theorem test_decode_or : decode layoutR72 0x0D710FC000#39 = .ok (.or (an 0 0xD7 false) (.byte .a) (.word .hl) (.byte .r0)) := by decide

/-- L12: `ori HL, HL, 0x80`. -/
theorem test_decode_ori : decode layoutR72 0x000138C080#39 = .ok (.ori (an 0 0 false) (.word .hl) (.word .hl) 0x80) := by decide

/-- L15: `xor HL, HL, DE [fm=0xD7]`. -/
theorem test_decode_xor : decode layoutR72 0x0D7158C500#39 = .ok (.xor (an 0 0xD7 false) (.word .hl) (.word .hl) (.word .de)) := by decide

/-- L17: `xori HL, HL, 0xFF`. -/
theorem test_decode_xori : decode layoutR72 0x000178C0FF#39 = .ok (.xori (an 0 0 false) (.word .hl) (.word .hl) 0xFF) := by decide

/-- L20: `not HL, A`. -/
theorem test_decode_not : decode layoutR72 0x0001987800#39 = .ok (.not (an 0 0 false) (.word .hl) (.byte .a)) := by decide

/-- S12: `shiftrotate A, B, 0x0B [fm=0xD7]`. -/
theorem test_decode_shiftrotate : decode layoutR72 0x0D71AF080B#39 = .ok (.shiftrotate (an 0 0xD7 false) .a .b .sll) := by decide

/-- N3: `get4 T1, T0, 0xFF`. -/
theorem test_decode_get4 : decode layoutR72 0x0001C610FF#39 = .ok (.get4 (an 0 0 false) .t1 .t0 0xFF) := by decide

/-- N7: `merge44 A, T0, T1 [fm=0xD6]`. -/
theorem test_decode_merge44 : decode layoutR72 0x0D61EF1180#39 = .ok (.merge44 (an 0 0xD6 false) .a .t0 .t1) := by decide

/-- M1: `mvPC T10 [pd=3]`. -/
theorem test_decode_mvPC : decode layoutR72 0x3002120000#39 = .ok (.mvPC (an 3 0 false) (.reg .t10)) := by decide

/-- D9: `DAA T0, B [fm=0xD5]`. -/
theorem test_decode_daa : decode layoutR72 0x0D52220800#39 = .ok (.daa (an 0 0xD5 false) .t0 .b) := by decide

/-- G3: `getbit A, B, 0x07 [fm=0x52]`. -/
theorem test_decode_getbit : decode layoutR72 0x05224F0807#39 = .ok (.getbit (an 0 0x52 false) .a .b 0x07) := by decide

/-- G5: `ngetbit A, B, 0x07 [fm=0x52]`. -/
theorem test_decode_ngetbit : decode layoutR72 0x05226F0807#39 = .ok (.ngetbit (an 0 0x52 false) .a .b 0x07) := by decide

/-- G10: `setbit F, T0, 0x00`. -/
theorem test_decode_setbit : decode layoutR72 0x00028D1000#39 = .ok (.setbit (an 0 0 false) .f .t0 0x00) := by decide

/-- G12: `nsetbit A, T0, 0x03`. -/
theorem test_decode_nsetbit : decode layoutR72 0x0002AF1003#39 = .ok (.nsetbit (an 0 0 false) .a .t0 0x03) := by decide

/-- M9: `limm SP, 0xDFF0`. -/
theorem test_decode_limm : decode layoutR72 0x0002D9DFF0#39 = .ok (.limm (an 0 0 false) (.word .sp) 0xDFF0) := by decide

/-- E1: `EI [pd=1, eoi]`. -/
theorem test_decode_ei : decode layoutR72 0x100AE00000#39 = .ok (.ei (an 1 0 true)) := by decide

/-- E2: `DI [pd=1, eoi]`. -/
theorem test_decode_di : decode layoutR72 0x100B000000#39 = .ok (.di (an 1 0 true)) := by decide

/-- E4: `IM 1 [pd=2, eoi]`. -/
theorem test_decode_im : decode layoutR72 0x200B200001#39 = .ok (.im (an 2 0 true) 1) := by decide

/-- A14: `subi B, B, 0x01 [fm=0xD6]`. -/
theorem test_decode_subi : decode layoutR72 0x0D63410801#39 = .ok (.subi (an 0 0xD6 false) .b .b 0x01) := by decide

/-- B15: `subi16 SP, SP, 0x02 [fm=0xD7]`. -/
theorem test_decode_subi16 : decode layoutR72 0x0D7379C802#39 = .ok (.subi16 (an 0 0xD7 false) (.reg .sp) (.reg .sp) 0x02) := by decide

/-- M6: `mvIff HL, 1`. -/
theorem test_decode_mvIff : decode layoutR72 0x0003980001#39 = .ok (.mvIff (an 0 0 false) (.word .hl) 1) := by decide

/-- J1: `j 0x1234 [pd=3, eoi]`. -/
theorem test_decode_j : decode layoutR72 0x300C001234#39 = .ok (.j (an 3 0 true) 0x1234) := by decide

/-- J3: `jr HL [pd=1, eoi]`. -/
theorem test_decode_jr : decode layoutR72 0x100C380000#39 = .ok (.jr (an 1 0 true) (.reg .hl)) := by decide

/-- J7: `Jc BC, 0x0200 [eoi]`. -/
theorem test_decode_jc : decode layoutR72 0x000C500200#39 = .ok (.jc (an 0 0 true) (.word .bc) 0x0200) := by decide

/-- J8: `Jrc T2, T10 [eoi]`. -/
theorem test_decode_jrc : decode layoutR72 0x000C6A9000#39 = .ok (.jrc (an 0 0 true) (.byte .t2) (.reg .t10)) := by decide

/-- J10: `bne B, R0, 0xFE [pd=2, eoi]`. -/
theorem test_decode_bne : decode layoutR72 0x200C8100FE#39 = .ok (.bne (an 2 0 true) (.byte .b) (.byte .r0) 0xFE) := by decide

/-- J15: `beq A, HL, 0x04 [eoi]`. -/
theorem test_decode_beq : decode layoutR72 0x000CAFC004#39 = .ok (.beq (an 0 0 true) (.byte .a) (.word .hl) 0x04) := by decide

/-- X2: `ld A, (HL + 0xFF)`. -/
theorem test_decode_ld : decode layoutR72 0x00060FC0FF#39 = .ok (.ld (an 0 0 false) .a (.reg .hl) 0xFF) := by decide

/-- X6: `st B, (SP + 0xFF)`. -/
theorem test_decode_st : decode layoutR72 0x000621C8FF#39 = .ok (.st (an 0 0 false) .b (.reg .sp) 0xFF) := by decide

/-- P3: `in B, (C + 0x01) [fm=0xD6]`. -/
theorem test_decode_inp : decode layoutR72 0x0D66411801#39 = .ok (.inp (an 0 0xD6 false) .b .c 0x01) := by decide

/-- P4: `out A, (R0 + 0xBF)`. -/
theorem test_decode_out : decode layoutR72 0x00066F00BF#39 = .ok (.out (an 0 0 false) .a .r0 0xBF) := by decide

/-! ### One step, values from 95_test_vectors.md part 2 -/

/-- A1: `add A, A, B [fm=0xD7]`. -/
theorem test_step_add_A1 : runs 0x0D700F7840#39 (given [(.byte .a, 0x7F), (.byte .b, 0x01), (.byte .f, 0x00)])
    (fun t => t.val8 .a == 0x80 && t.val8 .f == 0x94) = true := by decide

/-- A5: `add A, A, B [fm=0x10]`. -/
theorem test_step_add_A5 : runs 0x01000F7840#39 (given [(.byte .a, 0x0F), (.byte .b, 0x01), (.byte .f, 0xFF)])
    (fun t => t.val8 .a == 0x10 && t.val8 .f == 0xFF) = true := by decide

/-- A7: `addi A, A, 0xFF [fm=0xD7]`. -/
theorem test_step_addi_A7 : runs 0x0D702F78FF#39 (given [(.byte .a, 0x01), (.byte .f, 0x00)])
    (fun t => t.val8 .a == 0x00 && t.val8 .f == 0x51) = true := by decide

/-- A13: `sub A, A, B [fm=0xD7]`. -/
theorem test_step_sub_A13 : runs 0x0D704F7840#39 (given [(.byte .a, 0x7F), (.byte .b, 0xFF), (.byte .f, 0x00)])
    (fun t => t.val8 .a == 0x80 && t.val8 .f == 0x87) = true := by decide

/-- A11: `sub A, A, B [fm=0xD7]`. -/
theorem test_step_sub_A11 : runs 0x0D704F7840#39 (given [(.byte .a, 0x00), (.byte .b, 0x01), (.byte .f, 0x00)])
    (fun t => t.val8 .a == 0xFF && t.val8 .f == 0x93) = true := by decide

/-- B1: `add16 HL, HL, BC [fm=0x13]`. -/
theorem test_step_add16_B1 : runs 0x013078C400#39 (given [(.word .hl, 0x0FFF), (.word .bc, 0x0001), (.byte .f, 0x00)])
    (fun t => t.valX (.word .hl) == 0x1000 && t.val8 .f == 0x10) = true := by decide

/-- B3: `add16 HL, HL, DE [fm=0xD7]`. -/
theorem test_step_add16_B3 : runs 0x0D7078C500#39 (given [(.word .hl, 0x7FFF), (.word .de, 0x0001), (.byte .f, 0x00)])
    (fun t => t.valX (.word .hl) == 0x8000 && t.val8 .f == 0x94) = true := by decide

/-- B7: `addi16 SP, SP, 0xFE [fm=0xD7]`. -/
theorem test_step_addi16_B7 : runs 0x0D7099C8FE#39 (given [(.word .sp, 0x0001), (.byte .f, 0x00)])
    (fun t => t.valX (.word .sp) == 0xFFFF && t.val8 .f == 0x80) = true := by decide

/-- B12: `sub16 HL, HL, DE [fm=0xD7]`. -/
theorem test_step_sub16_B12 : runs 0x0D70B8C500#39 (given [(.word .hl, 0x0100), (.word .de, 0x0001), (.byte .f, 0x00)])
    (fun t => t.valX (.word .hl) == 0x00FF && t.val8 .f == 0x02) = true := by decide

/-- L3: `and HL, A, BC [fm=0xD7]`. -/
theorem test_step_and_L3 : runs 0x0D70D87C00#39 (given [(.byte .a, 0x80), (.word .bc, 0x1234), (.byte .f, 0x00)])
    (fun t => t.valX (.word .hl) == 0x1200 && t.val8 .f == 0x50) = true := by decide

/-- L6: `andi HL, HL, 0xF0`. -/
theorem test_step_andi_L6 : runs 0x0000F8C0F0#39 (given [(.word .hl, 0x1234), (.byte .f, 0x00)])
    (fun t => t.valX (.word .hl) == 0x1230 && t.val8 .f == 0x00) = true := by decide

/-- L10: `or A, HL, R0 [fm=0xD7]`. -/
theorem test_step_or_L10 : runs 0x0D710FC000#39 (given [(.word .hl, 0x8001), (.byte .f, 0x00)])
    (fun t => t.val8 .a == 0x01 && t.val8 .f == 0x00) = true := by decide

/-- L12: `ori HL, HL, 0x80`. -/
theorem test_step_ori_L12 : runs 0x000138C080#39 (given [(.word .hl, 0x0001), (.byte .f, 0x00)])
    (fun t => t.valX (.word .hl) == 0xFF81 && t.val8 .f == 0x00) = true := by decide

/-- L15: `xor HL, HL, DE [fm=0xD7]`. -/
theorem test_step_xor_L15 : runs 0x0D7158C500#39 (given [(.word .hl, 0x0100), (.word .de, 0x0001), (.byte .f, 0x00)])
    (fun t => t.valX (.word .hl) == 0x0101 && t.val8 .f == 0x00) = true := by decide

/-- L17: `xori HL, HL, 0xFF`. -/
theorem test_step_xori_L17 : runs 0x000178C0FF#39 (given [(.word .hl, 0x1234), (.byte .f, 0x00)])
    (fun t => t.valX (.word .hl) == 0xEDCB && t.val8 .f == 0x00) = true := by decide

/-- L19: `not HL, HL [fm=0x12]`. -/
theorem test_step_not_L19 : runs 0x012198C000#39 (given [(.word .hl, 0x00FF), (.byte .f, 0xED)])
    (fun t => t.valX (.word .hl) == 0xFF00 && t.val8 .f == 0xFF) = true := by decide

/-- S31: `shiftrotate A, B, 0x06 [fm=0xD7]`. -/
theorem test_step_shiftrotate_S31 : runs 0x0D71AF0806#39 (given [(.byte .b, 0x00), (.byte .f, 0x01)])
    (fun t => t.val8 .a == 0x80 && t.val8 .f == 0x80) = true := by decide

/-- S12: `shiftrotate A, B, 0x0B [fm=0xD7]`. -/
theorem test_step_shiftrotate_S12 : runs 0x0D71AF080B#39 (given [(.byte .b, 0x81), (.byte .f, 0x00)])
    (fun t => t.val8 .a == 0x03 && t.val8 .f == 0x05) = true := by decide

/-- N2: `get4 T1, T0, 0x00`. -/
theorem test_step_get4_N2 : runs 0x0001C61000#39 (given [(.byte .t0, 0xAB)])
    (fun t => t.val8 .t1 == 0x0B) = true := by decide

/-- N3: `get4 T1, T0, 0xFF`. -/
theorem test_step_get4_N3 : runs 0x0001C610FF#39 (given [(.byte .t0, 0xAB)])
    (fun t => t.val8 .t1 == 0x0A) = true := by decide

/-- N5: `merge44 T2, T0, T1 [fm=0xD6]`. -/
theorem test_step_merge44_N5 : runs 0x0D61EA1180#39 (given [(.byte .t0, 0xAB), (.byte .t1, 0xCD), (.byte .f, 0x01)])
    (fun t => t.val8 .t2 == 0xBD && t.val8 .f == 0x85) = true := by decide

/-- M2: `mvPC HL [pd=3]`. -/
theorem test_step_mvPC_M2 : runs 0x3002180000#39 { (given []) with archPC := 0xFFFE }
    (fun t => t.valX (.word .hl) == 0x0001 && t.archPC == 0x0001) = true := by decide

/-- D1: `DAA A, A [fm=0xD5]`. -/
theorem test_step_daa_D1 : runs 0x0D522F7800#39 (given [(.byte .a, 0x3C), (.byte .f, 0x00)])
    (fun t => t.val8 .a == 0x42 && t.val8 .f == 0x14) = true := by decide

/-- D7: `DAA A, A [fm=0xD5]`. -/
theorem test_step_daa_D7 : runs 0x0D522F7800#39 (given [(.byte .a, 0xF7), (.byte .f, 0x03)])
    (fun t => t.val8 .a == 0x97 && t.val8 .f == 0x83) = true := by decide

/-- G3: `getbit A, B, 0x07 [fm=0x52]`. -/
theorem test_step_getbit_G3 : runs 0x05224F0807#39 (given [(.byte .b, 0x80), (.byte .f, 0x00)])
    (fun t => t.val8 .a == 0x01 && t.val8 .f == 0x10) = true := by decide

/-- G5: `ngetbit A, B, 0x07 [fm=0x52]`. -/
theorem test_step_ngetbit_G5 : runs 0x05226F0807#39 (given [(.byte .b, 0x7F), (.byte .f, 0x00)])
    (fun t => t.val8 .a == 0x01 && t.val8 .f == 0x10) = true := by decide

/-- G10: `setbit F, T0, 0x00`. -/
theorem test_step_setbit_G10 : runs 0x00028D1000#39 (given [(.byte .f, 0x00), (.byte .t0, 0x01)])
    (fun t => t.val8 .f == 0x01) = true := by decide

/-- G8: `setbit A, T0, 0x00`. -/
theorem test_step_setbit_G8 : runs 0x00028F1000#39 (given [(.byte .a, 0xF1), (.byte .t0, 0x00)])
    (fun t => t.val8 .a == 0xF0) = true := by decide

/-- G12: `nsetbit A, T0, 0x03`. -/
theorem test_step_nsetbit_G12 : runs 0x0002AF1003#39 (given [(.byte .a, 0xFF), (.byte .t0, 0x01)])
    (fun t => t.val8 .a == 0xF7) = true := by decide

/-- M11: `limm AF, 0x12D7`. -/
theorem test_step_limm_M11 : runs 0x0002DC12D7#39 (given [(.byte .f, 0x00)])
    (fun t => t.val8 .a == 0x12 && t.val8 .f == 0xD7) = true := by decide

/-- M8: `limm A, 0x12FF`. -/
theorem test_step_limm_M8 : runs 0x0002CF12FF#39 (given [(.byte .a, 0x00)])
    (fun t => t.val8 .a == 0xFF) = true := by decide

/-- E1: `EI [pd=1, eoi]`. -/
theorem test_step_ei_E1 : runs 0x100AE00000#39 { (given []) with iff1 := false, iff2 := false }
    (fun t => t.iff1 == true && t.iff2 == true) = true := by decide

/-- E3: `DI [pd=1, eoi]`. -/
theorem test_step_di_E3 : runs 0x100B000000#39 { (given []) with iff1 := false, iff2 := true }
    (fun t => t.iff1 == false && t.iff2 == false) = true := by decide

/-- E4: `IM 1 [pd=2, eoi]`. -/
theorem test_step_im_E4 : runs 0x200B200001#39 { (given []) with iff1 := true, iff2 := true, archPC := 0x0100 }
    (fun t => t.iff1 == true && t.iff2 == true && t.archPC == 0x0102) = true := by decide

/-- A16: `subi A, A, 0xFF [fm=0xD7]`. -/
theorem test_step_subi_A16 : runs 0x0D734F78FF#39 (given [(.byte .a, 0x00), (.byte .f, 0x00)])
    (fun t => t.val8 .a == 0x01 && t.val8 .f == 0x13) = true := by decide

/-- B17: `subi16 HL, HL, 0x80 [fm=0xD7]`. -/
theorem test_step_subi16_B17 : runs 0x0D7378C080#39 (given [(.word .hl, 0x0000), (.byte .f, 0x00)])
    (fun t => t.valX (.word .hl) == 0x0080 && t.val8 .f == 0x13) = true := by decide

/-- M4: `mvIff T0, 1`. -/
theorem test_step_mvIff_M4 : runs 0x0003820001#39 { (given [(.byte .t0, 0xFF)]) with iff1 := false, iff2 := true }
    (fun t => t.val8 .t0 == 0x00) = true := by decide

/-- M5: `mvIff T0, 2`. -/
theorem test_step_mvIff_M5 : runs 0x0003820002#39 { (given [(.byte .t0, 0xFF)]) with iff1 := false, iff2 := true }
    (fun t => t.val8 .t0 == 0x01) = true := by decide

/-- J1: `j 0x1234 [pd=3, eoi]`. -/
theorem test_step_j_J1 : runs 0x300C001234#39 { (given []) with archPC := 0x0100 }
    (fun t => t.archPC == 0x1234) = true := by decide

/-- J3: `jr HL [pd=1, eoi]`. -/
theorem test_step_jr_J3 : runs 0x100C380000#39 { (given [(.word .hl, 0x4000)]) with archPC := 0x0100 }
    (fun t => t.archPC == 0x4000) = true := by decide

/-- J6: `Jc T0, 0x0200 [eoi]`. -/
theorem test_step_jc_J6 : runs 0x000C420200#39 { (given [(.byte .t0, 0x00)]) with archPC := 0x0100 }
    (fun t => t.archPC == 0x0100) = true := by decide

/-- J7: `Jc BC, 0x0200 [eoi]`. -/
theorem test_step_jc_J7 : runs 0x000C500200#39 { (given [(.word .bc, 0x0100)]) with archPC := 0x0100 }
    (fun t => t.archPC == 0x0200) = true := by decide

/-- J8: `Jrc T2, T10 [eoi]`. -/
theorem test_step_jrc_J8 : runs 0x000C6A9000#39 { (given [(.byte .t2, 0x01), (.word .t10, 0x8000)]) with archPC := 0x0100 }
    (fun t => t.archPC == 0x8000) = true := by decide

/-- J9: `Jrc T2, T10 [eoi]`. -/
theorem test_step_jrc_J9 : runs 0x000C6A9000#39 { (given [(.byte .t2, 0x00), (.word .t10, 0x8000)]) with archPC := 0x0100 }
    (fun t => t.archPC == 0x0100) = true := by decide

/-- J10: `bne B, R0, 0xFE [pd=2, eoi]`. -/
theorem test_step_bne_J10 : runs 0x200C8100FE#39 { (given [(.byte .b, 0x05)]) with archPC := 0x0100 }
    (fun t => t.archPC == 0x0100) = true := by decide

/-- J11: `bne B, R0, 0xFE [pd=2, eoi]`. -/
theorem test_step_bne_J11 : runs 0x200C8100FE#39 { (given [(.byte .b, 0x00)]) with archPC := 0x0100 }
    (fun t => t.archPC == 0x0102) = true := by decide

/-- J15: `beq A, HL, 0x04 [eoi]`. -/
theorem test_step_beq_J15 : runs 0x000CAFC004#39 { (given [(.byte .a, 0x80), (.word .hl, 0xFF80)]) with archPC := 0x0100 }
    (fun t => t.archPC == 0x0104) = true := by decide

/-- J16: `beq A, HL, 0x04 [eoi]`. -/
theorem test_step_beq_J16 : runs 0x000CAFC004#39 { (given [(.byte .a, 0x80), (.word .hl, 0x0080)]) with archPC := 0x0100 }
    (fun t => t.archPC == 0x0100) = true := by decide

/-- X3: `ld B, (HL + 0x01)`. -/
theorem test_step_ld_X3 : runs 0x000601C001#39 ((given [(.word .hl, 0xFFFF)]).writeMem 0x0000 0x99)
    (fun t => t.val8 .b == 0x99) = true := by decide

/-- X5: `ld L, (HL + 0x00)`. -/
theorem test_step_ld_X5 : runs 0x00060BC000#39 ((given [(.word .hl, 0xC000)]).writeMem 0xC000 0x34)
    (fun t => t.valX (.word .hl) == 0xC034) = true := by decide

/-- X6: `st B, (SP + 0xFF)`. -/
theorem test_step_st_X6 : runs 0x000621C8FF#39 (given [(.word .sp, 0xDFF0), (.byte .b, 0x12)])
    (fun t => t.readMem 0xDFEF == 0x12) = true := by decide

/-- X8: `st R0, (IX + 0x05)`. -/
theorem test_step_st_X8 : runs 0x0006208805#39 (given [(.word .ix, 0xC010)])
    (fun t => t.readMem 0xC015 == 0x00) = true := by decide

/-- P1: `in A, (C + 0x00) [fm=0xD6]`. -/
theorem test_step_inp_P1 : runs 0x0D664F1800#39 { (given [(.byte .c, 0x7E), (.byte .f, 0x01)]) with portAnswers := [0x80] }
    (fun t => t.val8 .a == 0x80 && t.val8 .f == 0x81) = true := by decide

/-- P3: `in B, (C + 0x01) [fm=0xD6]`. -/
theorem test_step_inp_P3 : runs 0x0D66411801#39 { (given [(.byte .c, 0xFF), (.byte .f, 0x00)]) with portAnswers := [0x03] }
    (fun t => t.val8 .b == 0x03 && t.val8 .f == 0x04) = true := by decide

/-- P5: `out A, (C + 0x01)`. -/
theorem test_step_out_P5 : runs 0x00066F1801#39 (given [(.byte .a, 0x3F), (.byte .c, 0xBE)])
    (fun t => t.ioLog == [.write 0xBF 0x3F]) = true := by decide

/-- P6: `out R0, (C + 0xFF)`. -/
theorem test_step_out_P6 : runs 0x00066018FF#39 (given [(.byte .c, 0x10)])
    (fun t => t.ioLog == [.write 0x0F 0x00]) = true := by decide

/-! ### Interrupts: 95_test_vectors.md part 2.16 -/

/-- I1: a maskable request is received; IFF1 is cleared and IFF2 stays. -/
theorem test_receive_I1 :
    { State.reset with iff1 := true, iff2 := true, intReq := true }.receive =
      { State.reset with iff2 := true, intReq := true, pend := some .int } := by decide

/-- I2: with IFF1 0 a maskable request is ignored. -/
theorem test_receive_I2 : { State.reset with intReq := true }.receive = { State.reset with intReq := true } := by decide

/-- I4: the non-maskable request is tested first. -/
theorem test_receive_I4 :
    { State.reset with iff1 := true, iff2 := true, intReq := true, nmiReq := true }.receive =
      { State.reset with iff2 := true, intReq := true, nmiReq := true, pend := some .nmi } := by decide

/-- I5: nothing is received while an interrupt is held. -/
theorem test_receive_I5 :
    { State.reset with pend := some .int, nmiReq := true }.receive = { State.reset with pend := some .int, nmiReq := true } := by
  decide

/-- The state before I6. -/
def beforeI6 : State :=
  { given [(.word .sp, 0xDFF0), (.byte .f, 0x94), (.byte .a, 0x06)] with pend := some .int, archPC := 0x0104, iff2 := true }

/-- I6: entry pushes the return address, low byte at the lower address. -/
theorem test_entry_I6 :
    (beforeI6.window.readMem 0xDFEF == 0x01 && beforeI6.window.readMem 0xDFEE == 0x04 &&
      beforeI6.window.valW (.reg .sp) == 0xDFEE && beforeI6.window.archPC == 0x0038 && beforeI6.window.pend.isNone &&
      beforeI6.window.val8 .f == 0x94 && beforeI6.window.val8 .a == 0x06 && !beforeI6.window.iff1 &&
      beforeI6.window.iff2) = true := by decide

/-- The state before I7. -/
def beforeI7 : State := { given [(.word .sp, 0x0001)] with pend := some .nmi, archPC := 0xABCD }

/-- I7: SP wraps. -/
theorem test_entry_I7 :
    (beforeI7.window.readMem 0x0000 == 0xAB && beforeI7.window.readMem 0xFFFF == 0xCD &&
      beforeI7.window.valW (.reg .sp) == 0xFFFF && beforeI7.window.archPC == 0x0066 && beforeI7.window.pend.isNone) = true := by
  decide

/-- I8: no window after a word without EOI that is no taken transfer. -/
theorem test_hold_I8 :
    runs 0x0000000000#39 { State.reset with pend := some .int } (fun t => t.pend == some .int && t.archPC == 0) = true := by
  decide

/-- I10: `EI` leaves a held interrupt held. -/
theorem test_hold_I10 :
    does (.ei (an 0 0 false)) { State.reset with pend := some .int } (fun t => t.iff1 && t.iff2 && t.pend == some .int) = true := by
  decide

/-- A request raised by the script is received before the word and entered at the word's window (60_exceptions R226, R228). -/
theorem test_script_entry :
    runs 0x100B200000#39
      { State.reset with
        iff1 := true, archPC := 0x0100
        script := [{ rst := false, intReq := true, nmiReq := false, receive := true, prefetch := 0, translate := 0 }] }
      (fun t => t.archPC == 0x0038 && t.readMem 0xFFFF == 0x01 && t.readMem 0xFFFE == 0x01 && !t.iff1) = true := by decide

/-! ### Reset and the translator -/

/-- 95_test_vectors.md part 2.17. -/
theorem test_reset :
    (State.reset.archPC == 0x0000 && !State.reset.iff1 && !State.reset.iff2 && State.reset.pend.isNone &&
      State.reset.queue.isEmpty && State.reset.nextWord == 0x0008000000 && State.reset.val8 .r0 == 0) = true := by decide

/-- Program 1 of 95_test_vectors.md part 3, the groups at 0x0104 and 0x0105. -/
def program1 : List XEntry :=
  [{ addr := 0x0104, len := 1, group := [0x1D780F7840] }, { addr := 0x0105, len := 2, group := [0x2003410801, 0x000C8100FD] }]

/-- The second word of the group at 0x0105 is a taken branch to 0x0104. -/
theorem test_program1_branch :
    runs 0x000C8100FD#39 { given [(.byte .b, 2)] with archPC := 0x0107, xlateTable := program1 }
      (fun t => t.archPC == 0x0104 && t.fetchPC == 0x0104 && t.queue.isEmpty) = true := by decide

/-- With the queue empty the group at `fetchPC` is translated, its first word runs and the rest is queued. -/
theorem test_translate :
    (match step { given [(.byte .b, 3)] with archPC := 0x0105, fetchPC := 0x0105, xlateTable := program1 } with
      | .next t => t.archPC == 0x0107 && t.fetchPC == 0x0107 && t.queue == [0x000C8100FD] && t.val8 .b == 2
      | _ => false) = true := by decide

/-- While RST is 1 the reset routine runs (70_reset R260); memory is kept. -/
theorem test_rst :
    (match step { (State.reset.writeMem 5 7) with
        archPC := 0x0100, iff1 := true, queue := [0]
        script := [{ rst := true, intReq := false, nmiReq := false, receive := false, prefetch := 0, translate := 0 }] } with
      | .next t => t.archPC == 0 && !t.iff1 && t.queue.isEmpty && t.readMem 5 == 7
      | _ => false) = true := by decide

/-- Byte 4 holds 1 and has been fetched ahead; then 2 is stored there. -/
def staleAt4 : State := ({ State.reset.writeMem 4 1 with fetchPC := 3 }.prefetchBytes 2).writeMem 4 2

/-- 20_memory R62: a byte fetched ahead keeps its old content for the translator, until a flush. -/
theorem test_prefetched : (staleAt4.xlatorView 4 == 1 && (staleAt4.flush 4).xlatorView 4 == 2) = true := by decide

/-- The same with a translator that knows the instruction at 3, one byte long. -/
def staleTable : State := { staleAt4 with xlateTable := [{ addr := 3, len := 1, group := [0] }] }

/-- A byte is let go when its instruction is translated, its neighbours are not (log 9). -/
theorem test_translated :
    ((Memory.find staleTable.translateOne.prefetched 3).isNone && staleTable.translateOne.xlatorView 4 == 1) = true := by
  decide

/-! ### The end of a run: program 1 of 95_test_vectors.md part 3, STOP_PC 0x0107 -/

/-- Program 1 at the last execution of the word 0x0105.0. -/
def atSubi : State :=
  { given [(.byte .b, 1)] with
    archPC := 0x0105, fetchPC := 0x0107, queue := [0x2003410801, 0x000C8100FD], xlateTable := program1 }

/-- After the word 0x0105.0 `archPC` is 0x0107, but the run goes on: no window follows it (70_reset R264). -/
theorem test_stop_group :
    ((match step atSubi with
      | .next t => t.archPC == 0x0107
      | _ => false) && !stopsAt 0x0107 atSubi) = true := by decide

/-- The not-taken branch 0x0105.1 ends the run; a taken one does not. -/
theorem test_stop_branch :
    (stopsAt 0x0107 { given [(.byte .b, 0)] with archPC := 0x0107, queue := [0x000C8100FD] } &&
      !stopsAt 0x0107 { given [(.byte .b, 2)] with archPC := 0x0107, queue := [0x000C8100FD] } &&
      !stopsAt 0x0107 { given [(.byte .b, 0)] with archPC := 0x0107, queue := [0x000C8100FD], pend := some .int }) =
      true := by decide

/-! ### MEMMAP -/

/-- The state after reset with ROM below 0x8000 and no memory from 0xC000 to 0xFFFF and at 0xBFFF. -/
def mapped : State :=
  { State.reset with
    cfg := { State.reset.cfg with
      memmap := [{ base := 0x0000, len := 0x8000, kind := .rom }, { base := 0xBFFF, len := 0x4001, kind := .unmapped }] } }

theorem test_memmap :
    (mapped.kindAt 0x7FFF == .rom && mapped.kindAt 0x8000 == .ram && mapped.kindAt 0xBFFE == .ram &&
      mapped.kindAt 0xBFFF == .unmapped && mapped.kindAt 0xFFFF == .unmapped) = true := by decide

/-- `st` reaches RAM and leaves ROM as it is. -/
theorem test_memmap_store :
    (does (.st (an 0 0 false) .r0 (.reg .hl) 0) ((mapped.putReg (.word .hl) 0x8000).writeMem 0x8000 5)
        (fun t => t.readMem 0x8000 == 0) &&
      does (.st (an 0 0 false) .r0 (.reg .hl) 0)
        { mapped.putReg (.word .hl) 0x7FFF with mem := [(0x7FFF, 5)] } (fun t => t.readMem 0x7FFF == 5)) = true := by decide

theorem test_memory_wf : Memory.wf (((State.reset.writeMem 9 1).writeMem 3 2).writeMem 9 4).mem = true := by decide

/-! ### Witnesses: for every statement with hypotheses, values that meet them -/

theorem witness_DecodeOfEncodeIsTheInstruction :
    layoutR72.wellFormed = true ∧ layoutUp.wellFormed = true ∧
      (Instr.sub (an 7 0xFF true) .a .b .t3).wellFormed = true ∧
      (Instr.limm (an 0 0 false) (.word .af) 0xFFFF).wellFormed = true := by decide

theorem witness_UnusedBitsAreIgnored :
    0x00000F787F#39 &&& Claims.usedBits layoutR72 (fieldsOf layoutR72 0x00000F787F#39).op =
      0x00000F7840#39 &&& Claims.usedBits layoutR72 (fieldsOf layoutR72 0x00000F787F#39).op := by decide

theorem witness_ReservedOpcodesAreRefused :
    (State.reset.withNextWord 0x0003A00000).tick.rst = false ∧
      Claims.reserved (fieldsOf layoutR72 (State.reset.withNextWord 0x0003A00000).prepared.nextWord).op = true ∧
      Claims.reserved (fieldsOf layoutR72 (State.reset.withNextWord 0x0007E00000).prepared.nextWord).op = true := by decide

theorem witness_PairViewsShareTheirHalves :
    halvesOf .t32 = some (.t3, .t2) ∧ Reg8.i ≠ .r0 ∧ Reg16.iy ≠ .ix ∧ isHalfOf .t2 .ix = false ∧ isHalfOf .t2 .t10 = false ∧
      Reg8.t2 ≠ .t3 := by decide

theorem witness_WritingFlagsTwiceIsRefused :
    (Instr.mvIff (an 0 0x80 false) (.word .af) 3).dest = some (.word .af) ∧
      OpX.holdsF (.word .af) = true ∧ (an 0 0x80 false).fMask ≠ 0 := by decide

/-! The instructions of these statements complete in every state; the one hypothesis is that F is not written twice. -/

theorem witness_AddWritesTheSumAndItsFlags :
    (Reg8.a = .f → (an 7 0xFF true).fMask = 0) ∧ (Reg8.f = .f → (an 7 0 true).fMask = 0) := by decide

theorem witness_SubWritesTheDifferenceAndItsFlags :
    (Reg8.a = .f → (an 7 0xFF true).fMask = 0) ∧ (Reg8.f = .f → (an 7 0 true).fMask = 0) := by decide

theorem witness_ShiftrotateFollowsItsTable :
    (Reg8.a = .f → (an 7 0xFF true).fMask = 0) ∧ (Reg8.f = .f → (an 7 0 true).fMask = 0) := by decide

theorem witness_Get4TakesOneNibble :
    (Reg8.a = .f → (an 7 0xFF true).fMask = 0) ∧ (Reg8.f = .f → (an 7 0 true).fMask = 0) := by decide

theorem witness_Merge44JoinsTheLowNibbles :
    (Reg8.a = .f → (an 7 0xFF true).fMask = 0) ∧ (Reg8.f = .f → (an 7 0 true).fMask = 0) := by decide

theorem witness_DaaFollowsItsAlgorithm :
    (Reg8.a = .f → (an 7 0xFF true).fMask = 0) ∧ (Reg8.f = .f → (an 7 0 true).fMask = 0) := by decide

theorem witness_LdReadsTheByteAtItsAddress :
    (Reg8.a = .f → (an 7 0xFF true).fMask = 0) ∧ (Reg8.f = .f → (an 7 0 true).fMask = 0) := by decide

theorem witness_InReadsItsPortOnce :
    (Reg8.a = .f → (an 7 0xFF true).fMask = 0) ∧ (Reg8.f = .f → (an 7 0 true).fMask = 0) := by decide

theorem witness_Add16WritesTheSumAndItsFlags :
    (OpW.reg .hl = .reg .af → (an 7 0xFF true).fMask = 0) ∧ (OpW.reg .af = .reg .af → (an 7 0 true).fMask = 0) := by decide

theorem witness_Sub16WritesTheDifferenceAndItsFlags :
    (OpW.reg .hl = .reg .af → (an 7 0xFF true).fMask = 0) ∧ (OpW.reg .af = .reg .af → (an 7 0 true).fMask = 0) := by decide

theorem witness_MvPCReadsTheAdvancedCounter :
    (OpW.reg .hl = .reg .af → (an 7 0xFF true).fMask = 0) ∧ (OpW.reg .af = .reg .af → (an 7 0 true).fMask = 0) := by decide

theorem witness_AndWritesTheConjunction :
    (OpX.holdsF (.byte .r0) = true → (an 7 0xFF true).fMask = 0) ∧
      (OpX.holdsF (.word .af) = true → (an 7 0 true).fMask = 0) := by decide

theorem witness_OrWritesTheDisjunction :
    (OpX.holdsF (.byte .r0) = true → (an 7 0xFF true).fMask = 0) ∧
      (OpX.holdsF (.word .af) = true → (an 7 0 true).fMask = 0) := by decide

theorem witness_XorWritesTheExclusiveOr :
    (OpX.holdsF (.byte .r0) = true → (an 7 0xFF true).fMask = 0) ∧
      (OpX.holdsF (.word .af) = true → (an 7 0 true).fMask = 0) := by decide

theorem witness_NotWritesTheComplement :
    (OpX.holdsF (.byte .r0) = true → (an 7 0xFF true).fMask = 0) ∧
      (OpX.holdsF (.word .af) = true → (an 7 0 true).fMask = 0) := by decide

theorem witness_LimmWritesItsImmediate :
    (OpX.holdsF (.byte .r0) = true → (an 7 0xFF true).fMask = 0) ∧
      (OpX.holdsF (.word .af) = true → (an 7 0 true).fMask = 0) := by decide

theorem witness_MvIffReadsTheFlipFlops :
    (OpX.holdsF (.byte .r0) = true → (an 7 0xFF true).fMask = 0) ∧
      (OpX.holdsF (.word .af) = true → (an 7 0 true).fMask = 0) ∧
      (0#8 ≠ 1 ∧ 0#8 ≠ 2) ∧ (3#8 ≠ 1 ∧ 3#8 ≠ 2) := by decide

theorem witness_InReadsItsPortOnce_answer :
    { State.reset with portAnswers := [0x80] }.portAnswers.head? = some 0x80 := by decide

theorem witness_BitTestsCopyOneBit :
    (Reg8.a = .f → (an 7 0xFF true).fMask = 0) ∧ (Reg8.f = .f → (an 7 0 true).fMask = 0) ∧
      (0#8).toNat ≤ 7 ∧ (7#8).toNat ≤ 7 ∧ 7 < (8#8).toNat ∧ 7 < (255#8).toNat := by decide

theorem witness_BitSetsReplaceOneBit :
    (Reg8.a = .f → (an 7 0xFF true).fMask = 0) ∧ (Reg8.f = .f → (an 7 0 true).fMask = 0) ∧
      (0#8).toNat ≤ 7 ∧ (7#8).toNat ≤ 7 ∧ 7 < (8#8).toNat ∧ 7 < (255#8).toNat := by decide

theorem witness_DaaAfterAddGivesTheDecimalSum :
    99 < 100 ∧ (addFlags 4 (Claims.bcd 99) (Claims.bcd 99)).h = some true ∧
      (addFlags 4 (Claims.bcd 99) (Claims.bcd 99)).c = some true ∧ (addFlags 4 (Claims.bcd 0) (Claims.bcd 0)).h = some false ∧
      (addFlags 4 (Claims.bcd 0) (Claims.bcd 0)).c = some false := by decide

theorem witness_LdReadsTheByteAtItsAddress_mapped :
    mapped.kindAt (mapped.dataAddr .r0 0) ≠ .unmapped ∧ mapped.kindAt (mapped.dataAddr .r0 0xFF) = .unmapped ∧
      State.reset.kindAt (State.reset.dataAddr .r0 0xFF) ≠ .unmapped := by decide

theorem witness_StStoresTheByteAtItsAddress :
    State.reset.kindAt (State.reset.dataAddr .r0 0xFF) = .ram ∧
      0x0000#16 ≠ State.reset.dataAddr .r0 0xFF ∧ 0xFFFE#16 ≠ State.reset.dataAddr .r0 0xFF ∧
      mapped.kindAt (mapped.dataAddr .r0 0) ≠ .ram := by decide

theorem witness_LoadReturnsTheLatestStore :
    ∃ t, (an 1 0 false).eoi = false ∧ exec (.st (an 1 0 false) .a .r0 0x80) State.reset = .next t ∧
      t.dataAddr .r0 0x80 = State.reset.dataAddr .r0 0x80 ∧
      State.reset.kindAt (State.reset.dataAddr .r0 0x80) = .ram ∧ (Reg8.b = .f → (an 0 0 true).fMask = 0) := ⟨_, rfl, rfl, rfl, rfl, by decide⟩

theorem witness_MemoryMapIsItsFirstRegion :
    mapped.cfg.memmap = { base := 0x0000, len := 0x8000, kind := .rom } :: mapped.cfg.memmap.tail ∧
      (0x7FFF < 0x8000 ∧ 0x7FFF#16 = 0x0000#16 + BitVec.ofNat 16 0x7FFF) ∧
      (∀ k, k < 0x8000 → 0x8000#16 ≠ 0x0000#16 + BitVec.ofNat 16 k) ∧ State.reset.cfg.memmap = [] := ⟨rfl, ⟨by decide, by decide⟩, fun k h e => by have := congrArg BitVec.toNat e; simp at this; omega, rfl⟩

theorem witness_LoadReturnsTheLatestStore_eoi :
    ∃ t, State.reset.pend = none ∧ exec (.st (an 1 0 true) .a .r0 0x80) State.reset = .next t ∧
      t.dataAddr .r0 0x80 = State.reset.dataAddr .r0 0x80 ∧
      State.reset.kindAt (State.reset.dataAddr .r0 0x80) = .ram := ⟨_, rfl, rfl, rfl, rfl⟩

theorem witness_ConditionalJumpsTestForNonZero :
    (given [(.word .bc, 0x0100)]).valX (.word .bc) ≠ 0 ∧ State.reset.valX (.word .bc) = 0 ∧
      (given [(.byte .t0, 0x80)]).valX (.byte .t0) ≠ 0 ∧ State.reset.valX (.byte .r0) = 0 := by decide

theorem witness_BranchesCompareAndAddTheirOffset :
    (given [(.byte .a, 0x80), (.word .hl, 0xFF80)]).valX (.byte .a) =
        (given [(.byte .a, 0x80), (.word .hl, 0xFF80)]).valX (.word .hl) ∧
      (given [(.byte .a, 0x80), (.word .hl, 0x0080)]).valX (.byte .a) ≠
        (given [(.byte .a, 0x80), (.word .hl, 0x0080)]).valX (.word .hl) := by decide

theorem witness_ReceptionHoldsOneInterrupt :
    beforeI6.pend ≠ none ∧ { State.reset with nmiReq := true }.pend = none ∧
      ({ State.reset with intReq := true, iff1 := true }.nmiReq = false ∧
        { State.reset with intReq := true, iff1 := true }.eiHold = 0) ∧
      (State.reset.intReq = false ∨ State.reset.iff1 = false ∨ State.reset.eiHold ≠ 0) ∧
      { State.reset with intReq := true, iff1 := true, eiHold := 1 }.eiHold ≠ 0 := by decide

theorem witness_EntryPushesTheReturnAddress :
    beforeI7.kindAt (beforeI7.regs.sp - 1) = .ram ∧ beforeI7.kindAt (beforeI7.regs.sp - 2) = .ram ∧
      0x0001#16 ≠ beforeI7.regs.sp - 1 ∧ 0x0001#16 ≠ beforeI7.regs.sp - 2 ∧ mapped.kindAt (mapped.regs.sp - 1) ≠ .ram ∧
      Claims.entryWrites (.word .ix) = false ∧ Claims.entryWrites (.byte .f) = false := by decide

theorem witness_WindowEntersTheHeldInterrupt :
    State.reset.pend = none ∧ beforeI6.pend = some .int ∧ beforeI7.pend = some .nmi := by decide

theorem witness_EoiOnlyAddsAWindow_next :
    isTransfer (.add (an 1 0xFF false) .a .a .b) = false ∧
      ∃ u, exec ((Instr.add (an 1 0xFF false) .a .a .b).withEoi false) State.reset = .next u := ⟨rfl, _, rfl⟩

theorem witness_EoiOnlyAddsAWindow_refused :
    isTransfer (.add (an 1 1 false) .f .a .b) = false ∧
      exec ((Instr.add (an 1 1 false) .f .a .b).withEoi false) State.reset = .refused .flagsWrittenTwice := ⟨rfl, rfl⟩

theorem witness_EoiOnlyAddsAWindow_transfer :
    isTransfer (.jc (an 1 0 false) (.byte .a) 0) = true ∧
      takes (.jc (an 1 0 false) (.byte .a) 0) (given [(.byte .a, 1)]) = true ∧
      takes (.jc (an 1 0 false) (.byte .a) 0) State.reset = false ∧ takes (.beq (an 1 0 false) (.byte .a) (.byte .r0) 0) State.reset = true ∧
      takes (.bne (an 1 0 false) (.byte .a) (.byte .r0) 0) State.reset = false := by decide

theorem witness_NoEntryInsideATranslationGroup :
    (an 1 0xFF false).eoi = false ∧ isTransfer (.xor (an 1 0xFF false) (.byte .a) (.byte .b) (.byte .c)) = false ∧
      ∃ t, exec (.xor (an 1 0xFF false) (.byte .a) (.byte .b) (.byte .c)) beforeI6 = .next t := ⟨rfl, rfl, _, rfl⟩

/-- A tick whose request levels and reception are given. -/
def tickOf (receive int nmi : Bool) : Tick :=
  { rst := false, intReq := int, nmiReq := nmi, receive := receive, prefetch := 0, translate := 0 }

theorem witness_ReceptionHappensBeforeTheWord :
    State.reset.tick.receive = false ∧ ({ beforeI6 with script := [tickOf true true false] }.tick.receive = true ∧
        beforeI6.pend ≠ none) ∧
      ({ State.reset with script := [tickOf true true true] }.tick.nmiReq = true ∧ State.reset.pend = none) ∧
      ({ State.reset with script := [tickOf true true false], iff1 := true }.tick.nmiReq = false ∧
        { State.reset with script := [tickOf true true false], iff1 := true }.tick.intReq = true ∧ State.reset.eiHold = 0) ∧
      ({ State.reset with script := [tickOf true true false] }.tick.receive = true ∧ State.reset.iff1 = false) := by decide

theorem witness_ReceptionHappensBeforeTheWord_held :
    { State.reset with script := [tickOf true true false], iff1 := true }.prepared.pend = some .int ∧
      { State.reset with script := [tickOf false true false], iff1 := true }.prepared.pend = none ∧
      { State.reset with script := [tickOf true true true], iff1 := true }.prepared.pend = some .nmi := by decide

theorem witness_RunEndsOnlyAtAWindow :
    decode layoutR72 atSubi.prepared.nextWord = .ok (.subi (an 2 0 false) .b .b 1) ∧
      takes (.subi (an 2 0 false) .b .b 1) atSubi.prepared.dequeued = false ∧
      isTransfer (.subi (an 2 0 false) .b .b 1) = false ∧
      stopsAt 0x0002 (State.reset.withNextWord 0x200AC10003) = true ∧
      (State.reset.withNextWord 0x200AC10003).tick.rst = false ∧
      decode layoutR72 (State.reset.withNextWord 0x200AC10003).prepared.nextWord = .ok (.limm (an 2 0 true) (.byte .b) 3) ∧
      (State.reset.withNextWord 0x200AC10003).prepared.pend = none := by decide

theorem witness_RunEndsOnlyAtAWindow_untaken :
    decode layoutR72 (State.reset.withNextWord 0x00048100FD).prepared.nextWord =
        .ok (.bne (an 0 0 false) (.byte .b) (.byte .r0) 0xFD) ∧
      takes (.bne (an 0 0 false) (.byte .b) (.byte .r0) 0xFD) (State.reset.withNextWord 0x00048100FD).prepared.dequeued = false ∧
      stopsAt 0x0000 (State.reset.withNextWord 0x00048100FD) = false := by decide

theorem witness_StepRunsTheDecodedInstruction :
    (State.reset.withNextWord 0x1D780F7840).tick.rst = false ∧
      decode layoutR72 (State.reset.withNextWord 0x1D780F7840).prepared.nextWord = .ok (.add (an 1 0xD7 true) .a .a .b) ∧
      (State.reset.withNextWord 0x1D780F7840).script = [] ∧
      (State.reset.withNextWord 0x1D780F7840).queue = 0x1D780F7840 :: [] := by decide

theorem witness_StepRunsTheDecodedInstruction_refused :
    (State.reset.withNextWord 0x0001AF780C).tick.rst = false ∧
      decode layoutR72 (State.reset.withNextWord 0x0001AF780C).prepared.nextWord = .error .shiftSelector := by decide

theorem witness_FillerOnlyOpensAWindow : State.reset.queue = [] := by decide

theorem witness_TranslatorDeliversTheGroupAtFetchPC :
    { State.reset with fetchPC := 0x0104, xlateTable := program1 }.script = [] ∧
      { State.reset with fetchPC := 0x0104, xlateTable := program1 }.queue = [] ∧
      program1.find? (fun y => y.addr == 0x0104) = some { addr := 0x0104, len := 1, group := [0x1D780F7840] } ∧
      decode layoutR72 0x1D780F7840 = .ok (.add (an 1 0xD7 true) .a .a .b) := by decide

theorem witness_OnlyEiAndDiWriteTheFlipFlops :
    writesIff (.im (an 0 0 true) 2) = false ∧ ∃ t, exec (.im (an 0 0 true) 2) State.reset = .next t := ⟨rfl, _, rfl⟩

theorem witness_OnlyStoresChangeMemory :
    isStore (.ld (an 0 0 true) .a .r0 0) = false ∧ State.reset.pend = none ∧
      ∃ t, exec (.ld (an 0 0 true) .a .r0 0) State.reset = .next t := ⟨rfl, rfl, _, rfl⟩

theorem witness_FetchedBytesStayUntilTranslatedOrFlushed :
    1 < 2 ∧ Memory.find staleAt4.prefetched (0x0004#16).toNat = some 1 ∧
      (staleTable.xlateAt 3).1 ≤ (0x0004#16 - 0x0003#16).toNat ∧
      (0x0003#16 - 0x0003#16).toNat < (staleTable.xlateAt 3).1 := by decide

theorem witness_IoEventsAreNeverLostOrReordered :
    ∃ t, step (State.reset.withNextWord 0x00066F00BF) = .next t ∧ t.ioLog ≠ [] := ⟨_, rfl, by decide⟩

theorem witness_OnlyTheDestinationRegisterChanges :
    overlaps (.byte .a) (.word .bc) = false ∧ overlaps (.byte .f) (.word .bc) = false ∧ State.reset.pend = none ∧
      Claims.entryWrites (.word .bc) = false ∧ ∃ t, exec (.add (an 0 0xFF true) .a .b .c) State.reset = .next t := ⟨rfl, rfl, rfl, rfl, _, rfl⟩

theorem witness_OnlyTheDestinationRegisterChanges_held :
    overlaps (.byte .a) (.word .ix) = false ∧ overlaps (.byte .f) (.word .ix) = false ∧ beforeI6.pend ≠ none ∧
      Claims.entryWrites (.word .ix) = false ∧ ∃ t, exec (.add (an 0 0xFF true) .a .b .c) beforeI6 = .next t := ⟨rfl, rfl, by decide, rfl, _, rfl⟩

theorem witness_StepKeepsTheParameters : ∃ t, step (State.reset.withNextWord 0x1D780F7840) = .next t := ⟨_, rfl⟩

theorem witness_StepKeepsTheStateInvariant :
    (State.reset.withNextWord 0x1D780F7840).inv = true ∧
      ∃ t, step (State.reset.withNextWord 0x1D780F7840) = .next t := ⟨rfl, _, rfl⟩

theorem witness_OnlyAWordWithoutMeaningStopsAStep : (Instr.daa (an 1 0xFF true) .a .a).wellFormed = true := by decide

theorem witness_ResetInputResetsTheCore :
    { State.reset with
      script := [{ rst := true, intReq := false, nmiReq := false, receive := false, prefetch := 0, translate := 0 }] }.tick.rst = true := by decide

end Sys2Proof.Tests
end

section
/-! PROOFS. The parity of a byte as an exclusive or of its bits and as a count of them (spec/00_scope.md R11). -/

namespace Sys2Proof.Machine
open Sys2Proof.Claims

theorem succ_even_eq_not_even (n : Nat) : ((n + 1) % 2 == 0) = !(n % 2 == 0) := by
  rw [Bool.eq_iff_iff, Bool.not_eq_true', beq_iff_eq, beq_eq_false_iff_ne]
  omega

/-- Counting and exclusive or keep the same parity: an element that satisfies `p` turns both over, any other neither. -/
theorem even_length_filter_eq_not_xor {α : Type} (p : α → Bool) (l : List α) :
    ((l.filter p).length % 2 == 0) = !(l.foldr (fun a odd => p a ^^ odd) false) := by
  induction l with
  | nil => rfl
  | cons a l ih =>
    cases hp : p a with
    | false => simpa [hp] using ih
    | true =>
      rw [List.filter_cons_of_pos hp, List.length_cons, succ_even_eq_not_even, ih, List.foldr_cons, hp, Bool.true_xor]

/-- The model's chain of exclusive ors, as one fold over the bit numbers. -/
theorem parity8_eq_not_foldr_xor (v : Byte) :
    parity8 v = !((List.range 8).foldr (fun k odd => v.getLsbD k ^^ odd) false) := by
  have bits : List.range 8 = [0, 1, 2, 3, 4, 5, 6, 7] := rfl
  simp only [parity8, bits, List.foldr_cons, List.foldr_nil, Bool.false_xor, Bool.xor_comm]

/-- Settles O9: the exclusive or of the bits and the count of them agree on every list, and so on the bits of a byte. -/
theorem parityIsOneForAnEvenCount : Obligations.ParityIsOneForAnEvenCount := by
  intro v
  rw [parity8_eq_not_foldr_xor, evenParity, even_length_filter_eq_not_xor]

end Sys2Proof.Machine
end

section
/-! PROOFS. What the EOI bit of a word does: nothing but an interrupt window after the word (spec/30_encoding.md R83). EOI is
read in one place, `State.finish`, so each shared end of the meanings carries the law to the instructions that end in it. -/

namespace Sys2Proof.Machine

/-- An interrupt window after an outcome; an outcome that stops stays what it is. -/
def addWindow : Host.Outcome State Fault Refusal → Host.Outcome State Fault Refusal
  | .next u => .next u.window
  | .fault r => .fault r
  | .refused r => .refused r

@[simp] theorem addWindow_next (u : State) : addWindow (.next u) = .next u.window := rfl
@[simp] theorem addWindow_refused (r : Refusal) : addWindow (.refused r) = .refused r := rfl

theorem annot_withEoi (i : Instr) (e : Bool) : (i.withEoi e).annot = i.annot.withEoi e := by
  cases i <;> rfl

theorem State.advance_withEoi (s : State) (an : Annot) (e : Bool) : s.advance (an.withEoi e) = s.advance an := rfl

/-! ### The shared ends of the meanings -/

theorem State.finish_none_withEoi (s : State) (an : Annot) (g : Gen) :
    s.finish (an.withEoi true) g none = (s.finish (an.withEoi false) g none).window := rfl

theorem State.finish_some_withEoi (s : State) (an : Annot) (g : Gen) (t : Word) (e : Bool) :
    s.finish (an.withEoi e) g (some t) = s.finish an g (some t) := rfl

theorem State.retire_withEoi (s : State) (an : Annot) (g : Gen) :
    s.retire (an.withEoi true) g none = addWindow (s.retire (an.withEoi false) g none) := rfl

/-- Whether F would be written twice does not depend on EOI, so both words are refused or both finish. -/
theorem State.retireWrite_withEoi (s : State) (an : Annot) (d : OpX) (g : Gen) :
    s.retireWrite (an.withEoi true) d g = addWindow (s.retireWrite (an.withEoi false) d g) := by
  rcases s.retireWrite_cases (an.withEoi false) d g with ⟨hd, hm, hr⟩ | ⟨hf, hn⟩
  · rcases s.retireWrite_cases (an.withEoi true) d g with ⟨_, _, hr'⟩ | ⟨hf', _⟩
    · rw [hr, hr', addWindow_refused]
    · exact absurd (hf' hd) hm
  · rcases s.retireWrite_cases (an.withEoi true) d g with ⟨hd', hm', _⟩ | ⟨_, hn'⟩
    · exact absurd (hf hd') hm'
    · rw [hn, hn', addWindow_next, State.finish_none_withEoi]

theorem State.alu8_withEoi (s : State) (an : Annot) (rd : Reg8) (r : Byte) (g : Gen) :
    s.alu8 (an.withEoi true) rd r g = addWindow (s.alu8 (an.withEoi false) rd r g) :=
  State.retireWrite_withEoi ..

theorem State.alu16_withEoi (s : State) (an : Annot) (rd : OpX) (r : Word) (g : Gen) :
    s.alu16 (an.withEoi true) rd r g = addWindow (s.alu16 (an.withEoi false) rd r g) :=
  State.retireWrite_withEoi ..

theorem State.openResult_withEoi (s : State) (an : Annot) (rd : Reg8) :
    s.openResult (an.withEoi true) rd = addWindow (s.openResult (an.withEoi false) rd) :=
  State.alu8_withEoi ..

/-- A taken transfer opens its one window whatever EOI is (60_exceptions R228). -/
theorem State.transfer_taken_withEoi (s : State) (an : Annot) (t : Word) (e : Bool) :
    s.transfer (an.withEoi e) true t = s.transfer an true t :=
  congrArg Host.Outcome.next (State.finish_some_withEoi ..)

theorem State.transfer_untaken_withEoi (s : State) (an : Annot) (t : Word) :
    s.transfer (an.withEoi true) false t = addWindow (s.transfer (an.withEoi false) false t) :=
  State.retire_withEoi ..

/-! ### The instructions -/

/-- A meaning that chooses between two ends by its immediate, which EOI is no part of. -/
theorem addWindow_ite {c : Prop} [Decidable c] {x y x' y' : Host.Outcome State Fault Refusal}
    (hx : x' = addWindow x) (hy : y' = addWindow y) : (if c then x' else y') = addWindow (if c then x else y) := by
  split
  · exact hx
  · exact hy

/-- Every instruction that is no transfer, by the shared end its meaning has; the state that end starts from is the same for
both words. -/
theorem exec_withEoi_of_not_transfer (i : Instr) (s : State) (hi : isTransfer i = false) :
    exec (i.withEoi true) s = addWindow (exec (i.withEoi false) s) := by
  cases i
  case add | addi | sub | subi | shiftrotate | get4 | merge44 | daa | ld | inp => exact State.alu8_withEoi ..
  case add16 | addi16 | sub16 | subi16 | and | andi | or | ori | xor | xori | not | mvPC | limm =>
    exact State.alu16_withEoi ..
  case getbit | ngetbit | setbit | nsetbit =>
    exact addWindow_ite (State.alu8_withEoi ..) (State.openResult_withEoi ..)
  case mvIff =>
    exact addWindow_ite (State.alu16_withEoi ..) (addWindow_ite (State.alu16_withEoi ..) (State.alu16_withEoi ..))
  case ei | di | im | st | out => exact State.retire_withEoi ..
  case j | jr | jc | jrc | bne | beq => cases hi

/-- A transfer is, with either EOI, the one of `takes` to one target, from the state after PC_disp. -/
theorem exec_withEoi_of_transfer (i : Instr) (s : State) (hi : isTransfer i = true) :
    ∃ target, ∀ e, exec (i.withEoi e) s = (s.advance i.annot).transfer (i.annot.withEoi e) (takes i s) target := by
  cases i
  case j _ imm | jc _ _ imm => exact ⟨imm, fun _ => rfl⟩
  case jr _ ra => exact ⟨s.valW ra, fun _ => rfl⟩
  case jrc _ _ rb => exact ⟨s.valW rb, fun _ => rfl⟩
  case bne an _ _ imm | beq an _ _ imm => exact ⟨(s.advance an).branchTarget imm, fun _ => rfl⟩
  all_goals cases hi

/-- Settles O43, from the law of each kind of word: no transfer, taken transfer, transfer not taken. -/
theorem eoiOnlyAddsAWindow : Obligations.EoiOnlyAddsAWindow := by
  refine ⟨fun i s hi => ?_, fun i s hi => ?_⟩
  · have hw := exec_withEoi_of_not_transfer i s hi
    exact ⟨fun u hu => by rw [hw, hu, addWindow_next], fun r hr => by rw [hw, hr, addWindow_refused]⟩
  · obtain ⟨target, hx⟩ := exec_withEoi_of_transfer i s hi
    have hclear : exec (i.withEoi false) s =
        (s.advance (i.withEoi false).annot).transfer (i.withEoi false).annot (takes i s) target := by
      rw [annot_withEoi, State.advance_withEoi, hx]
    refine ⟨fun ht => ⟨⟨target, completesTaken_of_transfer hclear ht⟩, ?_⟩,
      fun ht => ⟨completesInPlace_of_transfer hclear ht, _, hx false, ?_⟩⟩
    · rw [hx, hx, ht, State.transfer_taken_withEoi, State.transfer_taken_withEoi]
    · rw [hx, ht, State.transfer_untaken_withEoi]
      rfl

end Sys2Proof.Machine
end

section
/-! PROOFS. Complement, nibble and the two moves of control state (spec/41_alu_logical.md R130, R134, R137, R138). Each of them
writes one value and ends in `alu8` or `alu16`, so what is proved here is that value, in plain arithmetic. -/

namespace Sys2Proof.Machine
open Sys2Proof.Claims

/-! ### Destinations that hold F -/

theorem OpX.holdsF_byte_iff (x : Reg8) : (OpX.byte x).holdsF = true ↔ x = .f := by
  cases x <;> decide

theorem OpW.holdsF_toX_iff (o : OpW) : o.toX.holdsF = true ↔ o = .reg .af := by
  cases o with
  | r0 => decide
  | reg x => cases x <;> decide

/-! ### Completing with a value -/

/-- `completesWriting_of_alu16` for an `Rx` destination, whose result is one byte. -/
theorem completesWriting_of_alu8 {i : Instr} {s : State} {x : Reg8} {v : Byte} {g : Gen} (k : Nat)
    (he : exec i s = ((s.advance i.annot).drew k).alu8 i.annot x v g) (hf : x = .f → i.annot.fMask = 0) :
    completesWriting i s (.byte x) (zext16 v) g :=
  completesWriting_of_alu16 k (he.trans (State.alu8_eq ..)) fun hx => hf ((OpX.holdsF_byte_iff x).mp hx)

/-! ### The values, as numbers -/

theorem not_eq_ofNat_sub (v : Word) : ~~~v = BitVec.ofNat 16 (65535 - v.toNat) := by
  apply BitVec.eq_of_toNat_eq
  rw [BitVec.toNat_not, BitVec.toNat_ofNat]
  omega

/-- Bits 7:4 are the quotient by 16, bits 3:0 the remainder. -/
theorem nibbleOf_eq_ofNat (b imm : Byte) :
    nibbleOf b imm = BitVec.ofNat 8 (if imm = 0 then b.toNat % 16 else b.toNat / 16) := by
  apply BitVec.eq_of_toNat_eq
  by_cases h : imm = 0
  · simp [nibbleOf, h]
  · rw [nibbleOf, if_pos (bne_iff_ne.mpr h), if_neg h]
    simp only [BitVec.toNat_setWidth, BitVec.extractLsb'_toNat, BitVec.toNat_ofNat, Nat.shiftRight_eq_div_pow]
    omega

theorem flipFlop_eq_ofNat (x : Bool) : flipFlop x = BitVec.ofNat 16 x.toNat := by
  cases x <;> rfl

/-! ### The three meanings of `mvIff` -/

theorem exec_mvIff_one (an : Annot) (rd : OpX) (s : State) :
    exec (.mvIff an rd 1) s = (s.advance an).alu16 an rd (flipFlop s.iff1) Gen.dc := rfl

theorem exec_mvIff_two (an : Annot) (rd : OpX) (s : State) :
    exec (.mvIff an rd 2) s = (s.advance an).alu16 an rd (flipFlop s.iff2) Gen.dc := rfl

theorem exec_mvIff_other (an : Annot) (rd : OpX) {imm : Byte} (s : State) (h1 : imm ≠ 1) (h2 : imm ≠ 2) :
    exec (.mvIff an rd imm) s = ((s.advance an).drew 1).alu16 an rd (s.anyWord 0) Gen.dc :=
  (if_neg h1).trans (if_neg h2)

/-! ### The statements -/

/-- Settles O17: the bitwise complement is the difference from 65535. -/
theorem notWritesTheComplement : Obligations.NotWritesTheComplement := by
  refine ⟨fun an rd rs s hf => ?_, fun _ _ _ _ => rfl⟩
  rw [← not_eq_ofNat_sub]
  exact completesWriting_of_alu16 0 rfl hf

/-- Settles O19: the nibble taken is a quotient or a remainder by 16. -/
theorem get4TakesOneNibble : Obligations.Get4TakesOneNibble := by
  refine ⟨fun an rd rs imm s hf => ?_, fun _ _ _ _ _ => rfl⟩
  rw [← nibbleOf_eq_ofNat]
  exact completesWriting_of_alu8 0 rfl hf

/-- Settles O21: the value read is the `archPC` of the state after PC_disp, which is `nextPC`. -/
theorem mvPCReadsTheAdvancedCounter : Obligations.MvPCReadsTheAdvancedCounter := by
  refine ⟨fun an rd s hf => ?_, fun _ _ _ => rfl⟩
  have hpc : (s.advance an).archPC = BitVec.ofNat 16 (s.archPC.toNat + an.pcDisp.toNat) := s.advance_nextPC an
  rw [← hpc]
  exact completesWriting_of_alu16 0 rfl fun hd => hf ((OpW.holdsF_toX_iff rd).mp hd)

/-- Settles O22, by the three meanings; the value where IMM8 is neither 1 nor 2 is the one drawn. -/
theorem mvIffReadsTheFlipFlops : Obligations.MvIffReadsTheFlipFlops := by
  refine ⟨fun an rd s hf => ⟨?_, ?_, fun imm h1 h2 => ⟨s.anyWord 0, ?_⟩⟩, fun _ _ _ _ => rfl⟩
  · rw [← flipFlop_eq_ofNat]
    exact completesWriting_of_alu16 0 (exec_mvIff_one an rd s) hf
  · rw [← flipFlop_eq_ofNat]
    exact completesWriting_of_alu16 0 (exec_mvIff_two an rd s) hf
  · exact completesWriting_of_alu16 1 (exec_mvIff_other an rd s h1 h2) hf

end Sys2Proof.Machine
end

section
/-! PROOFS. The bit operations (spec/42_alu_special_bit.md R152 to R156): a bit as a quotient and a remainder, one bit replaced as
a difference and a sum, and what the four instructions do for an index of 0 to 7 and for one above 7. -/

namespace Sys2Proof.Machine
open Sys2Proof.Claims

/-! ### One bit of a byte, as a number -/

theorem bitByte_eq_ofNat (x : Bool) : bitByte x = BitVec.ofNat 8 x.toNat := by
  cases x <;> rfl

theorem bitByte_not_eq_ofNat (x : Bool) : bitByte (!x) = BitVec.ofNat 8 (1 - x.toNat) := by
  cases x <;> rfl

theorem toNat_getLsbD_eq {w : Nat} (v : BitVec w) (k : Nat) : (v.getLsbD k).toNat = v.toNat / 2 ^ k % 2 := by
  rw [← BitVec.testBit_toNat, Nat.toNat_testBit]

theorem bitByte_getLsbD (v : Byte) (k : Nat) : bitByte (v.getLsbD k) = BitVec.ofNat 8 (v.toNat / 2 ^ k % 2) := by
  rw [bitByte_eq_ofNat, toNat_getLsbD_eq]

theorem bitByte_not_getLsbD (v : Byte) (k : Nat) :
    bitByte (!v.getLsbD k) = BitVec.ofNat 8 (1 - v.toNat / 2 ^ k % 2) := by
  rw [bitByte_not_eq_ofNat, toNat_getLsbD_eq]

theorem bitFlags_eq_bitTable (r : Byte) : bitFlags r = bitTable r := rfl

/-! ### One bit replaced, as a number -/

/-- The bits of `x` outside and inside `m` share none, so their sum carries nothing. -/
theorem toNat_and_not_add_and {w : Nat} (x m : BitVec w) : (x &&& ~~~m).toNat + (x &&& m).toNat = x.toNat := by
  have disjoint : (x &&& ~~~m) &&& (x &&& m) = 0#w := by ext i; grind
  have joined : (x &&& ~~~m) ||| (x &&& m) = x := by ext i; grind
  rw [← BitVec.toNat_add_of_and_eq_zero disjoint, BitVec.add_eq_or_of_and_eq_zero _ _ disjoint, joined]

theorem toNat_and_twoPow {w k : Nat} (x : BitVec w) (hk : k < w) :
    (x &&& BitVec.twoPow w k).toNat = x.toNat / 2 ^ k % 2 * 2 ^ k := by
  rw [BitVec.toNat_and, BitVec.toNat_twoPow_of_lt hk, Nat.and_two_pow, Nat.toNat_testBit]

/-- Clearing bit `k` subtracts what it stands for. -/
theorem toNat_and_not_twoPow {w k : Nat} (x : BitVec w) (hk : k < w) :
    (x &&& ~~~BitVec.twoPow w k).toNat = x.toNat - x.toNat / 2 ^ k % 2 * 2 ^ k := by
  rw [← toNat_and_twoPow x hk, ← toNat_and_not_add_and x (BitVec.twoPow w k), Nat.add_sub_cancel]

/-- Setting bit `k` clears it, then adds what it stands for. -/
theorem toNat_or_twoPow {w k : Nat} (x : BitVec w) (hk : k < w) :
    (x ||| BitVec.twoPow w k).toNat = x.toNat - x.toNat / 2 ^ k % 2 * 2 ^ k + 2 ^ k := by
  have disjoint : (x &&& ~~~BitVec.twoPow w k) &&& BitVec.twoPow w k = 0#w := by ext i; grind
  have cleared : x ||| BitVec.twoPow w k = (x &&& ~~~BitVec.twoPow w k) ||| BitVec.twoPow w k := by ext i; grind
  rw [cleared, ← BitVec.add_eq_or_of_and_eq_zero _ _ disjoint, BitVec.toNat_add_of_and_eq_zero disjoint,
    toNat_and_not_twoPow x hk, BitVec.toNat_twoPow_of_lt hk]

theorem toNat_putBit (old : Byte) {k : Nat} (v : Bool) (hk : k ≤ 7) :
    (putBit old k v).toNat = old.toNat - old.toNat / 2 ^ k % 2 * 2 ^ k + v.toNat * 2 ^ k := by
  rw [putBit, ← BitVec.twoPow_eq]
  cases v with
  | false => simpa using toNat_and_not_twoPow old (Nat.lt_succ_of_le hk)
  | true => simpa using toNat_or_twoPow old (Nat.lt_succ_of_le hk)

theorem putBit_eq_bitReplaced (old : Byte) {k : Nat} (v : Bool) (hk : k ≤ 7) : putBit old k v = bitReplaced old k v := by
  rw [bitReplaced, ← toNat_putBit old v hk, BitVec.ofNat_toNat, BitVec.setWidth_eq]

/-! ### The meanings, for an index of 0 to 7 and for one above 7 -/

section
variable (an : Annot) (rd rs : Reg8) {imm : Byte} (s : State)

theorem exec_getbit_of_le (h : imm.toNat ≤ 7) :
    exec (.getbit an rd rs imm) s =
      (s.advance an).alu8 an rd (bitByte ((s.val8 rs).getLsbD imm.toNat))
        (bitFlags (bitByte ((s.val8 rs).getLsbD imm.toNat))) :=
  if_pos h

theorem exec_ngetbit_of_le (h : imm.toNat ≤ 7) :
    exec (.ngetbit an rd rs imm) s =
      (s.advance an).alu8 an rd (bitByte (!(s.val8 rs).getLsbD imm.toNat))
        (bitFlags (bitByte (!(s.val8 rs).getLsbD imm.toNat))) :=
  if_pos h

theorem exec_setbit_of_le (h : imm.toNat ≤ 7) :
    exec (.setbit an rd rs imm) s =
      (s.advance an).alu8 an rd (putBit (s.val8 rd) imm.toNat (decide (s.val8 rs ≠ 0))) Gen.dc := by
  rw [decide_not]
  exact if_pos h

theorem exec_nsetbit_of_le (h : imm.toNat ≤ 7) :
    exec (.nsetbit an rd rs imm) s =
      (s.advance an).alu8 an rd (putBit (s.val8 rd) imm.toNat (decide (s.val8 rs = 0))) Gen.dc :=
  if_pos h

theorem exec_getbit_of_gt (h : 7 < imm.toNat) : exec (.getbit an rd rs imm) s = (s.advance an).openResult an rd :=
  if_neg h.not_ge

theorem exec_ngetbit_of_gt (h : 7 < imm.toNat) : exec (.ngetbit an rd rs imm) s = (s.advance an).openResult an rd :=
  if_neg h.not_ge

theorem exec_setbit_of_gt (h : 7 < imm.toNat) : exec (.setbit an rd rs imm) s = (s.advance an).openResult an rd :=
  if_neg h.not_ge

theorem exec_nsetbit_of_gt (h : 7 < imm.toNat) : exec (.nsetbit an rd rs imm) s = (s.advance an).openResult an rd :=
  if_neg h.not_ge

end

/-- An index above 7: the value is the one drawn, and no flag is generated. -/
theorem completesWriting_of_openResult {i : Instr} {s : State} {x : Reg8}
    (he : exec i s = (s.advance i.annot).openResult i.annot x) (hf : x = .f → i.annot.fMask = 0) :
    ∃ v, completesWriting i s (.byte x) v Gen.dc :=
  ⟨zext16 ((s.advance i.annot).anyByte 0), completesWriting_of_alu8 1 he hf⟩

/-! ### The statements -/

/-- Settles O25: bit `k` is the quotient by `2 ^ k`, modulo 2. -/
theorem bitTestsCopyOneBit : Obligations.BitTestsCopyOneBit := by
  refine ⟨fun an rd rs imm s hf => ⟨fun h => ⟨?_, ?_⟩, fun h => ⟨?_, ?_⟩⟩, fun _ _ _ _ _ => rfl, fun _ _ _ _ _ => rfl⟩
  · rw [← bitByte_getLsbD, ← bitFlags_eq_bitTable]
    exact completesWriting_of_alu8 0 (exec_getbit_of_le an rd rs s h) hf
  · rw [← bitByte_not_getLsbD, ← bitFlags_eq_bitTable]
    exact completesWriting_of_alu8 0 (exec_ngetbit_of_le an rd rs s h) hf
  · exact completesWriting_of_openResult (exec_getbit_of_gt an rd rs s h) hf
  · exact completesWriting_of_openResult (exec_ngetbit_of_gt an rd rs s h) hf

/-- Settles O26: the bit replaced is cleared by a difference and set by a sum. -/
theorem bitSetsReplaceOneBit : Obligations.BitSetsReplaceOneBit := by
  refine ⟨fun an rd rs imm s hf => ⟨fun h => ⟨?_, ?_⟩, fun h => ⟨?_, ?_⟩⟩, fun _ _ _ _ _ => rfl, fun _ _ _ _ _ => rfl⟩
  · rw [← putBit_eq_bitReplaced _ _ h]
    exact completesWriting_of_alu8 0 (exec_setbit_of_le an rd rs s h) hf
  · rw [← putBit_eq_bitReplaced _ _ h]
    exact completesWriting_of_alu8 0 (exec_nsetbit_of_le an rd rs s h) hf
  · exact completesWriting_of_openResult (exec_setbit_of_gt an rd rs s h) hf
  · exact completesWriting_of_openResult (exec_nsetbit_of_gt an rd rs s h) hf

end Sys2Proof.Machine
end

section
/-! PROOFS. The control transfers (spec/43_control_transfer.md R170 to R178). Each of them is `State.transfer` from the state
after PC_disp, so what is proved here is its target and the test that decides it. -/

namespace Sys2Proof.Machine

/-! ### The target of a branch, as a number -/

theorem sext16_eq_ofInt (v : Byte) : sext16 v = BitVec.ofInt 16 v.toInt := rfl

/-- PC_disp is added before the offset, and both sums are taken modulo 65536. -/
theorem State.branchTarget_advance_eq_ofInt (s : State) (an : Annot) (imm : Byte) :
    (s.advance an).branchTarget imm =
      BitVec.ofInt 16 ((s.archPC.toNat : Int) + (an.pcDisp.toNat : Int) + imm.toInt) := by
  rw [BitVec.ofInt_add, ← Nat.cast_add, BitVec.ofInt_natCast, ← sext16_eq_ofInt, State.branchTarget, s.advance_nextPC an,
    State.nextPC]

/-! ### The tests -/

section
variable {i : Instr} {s : State} {a b t : Word}

/-- A transfer taken where two values differ. -/
theorem completes_of_transfer_bne (he : exec i s = (s.advance i.annot).transfer i.annot (a != b) t) :
    (a ≠ b → completesTaken i s t) ∧ (a = b → completesInPlace i s) :=
  ⟨fun hne => completesTaken_of_transfer he (bne_iff_ne.mpr hne),
    fun heq => completesInPlace_of_transfer he (bne_eq_false_iff_eq.mpr heq)⟩

/-- A transfer taken where two values are equal. -/
theorem completes_of_transfer_beq (he : exec i s = (s.advance i.annot).transfer i.annot (a == b) t) :
    (a = b → completesTaken i s t) ∧ (a ≠ b → completesInPlace i s) :=
  ⟨fun heq => completesTaken_of_transfer he (beq_iff_eq.mpr heq),
    fun hne => completesInPlace_of_transfer he (beq_eq_false_iff_ne.mpr hne)⟩

end

/-! ### The statements -/

/-- Settles O35: the test of `j` and `jr` is the constant true; the value of R0 as an `RRx` operand is 0. -/
theorem jumpsAreAlwaysTaken : Obligations.JumpsAreAlwaysTaken := by
  have jr_completes (an : Annot) (ra : OpW) (s : State) : completesTaken (.jr an ra) s (s.valW ra) :=
    completesTaken_of_transfer rfl rfl
  exact ⟨fun _ _ _ => completesTaken_of_transfer rfl rfl, fun an x s => jr_completes an (.reg x) s,
    fun an s => jr_completes an .r0 s, fun _ _ _ => rfl, fun _ _ _ => rfl⟩

/-- Settles O36: both test that the register differs from 0. -/
theorem conditionalJumpsTestForNonZero : Obligations.ConditionalJumpsTestForNonZero :=
  ⟨fun _ _ _ _ => completes_of_transfer_bne rfl, fun _ _ _ _ => completes_of_transfer_bne rfl, fun _ _ _ _ => rfl,
    fun _ _ _ _ => rfl⟩

/-- Settles O37: the two tests are each other's negation, and the target is the sum of R175. -/
theorem branchesCompareAndAddTheirOffset : Obligations.BranchesCompareAndAddTheirOffset := by
  refine ⟨fun an ra rb imm s => ?_, fun _ _ _ _ _ => rfl, fun _ _ _ _ _ => rfl⟩
  rw [← s.branchTarget_advance_eq_ofInt an imm]
  obtain ⟨bne_taken, bne_untaken⟩ := completes_of_transfer_bne (i := .bne an ra rb imm) (s := s) rfl
  obtain ⟨beq_taken, beq_untaken⟩ := completes_of_transfer_beq (i := .beq an ra rb imm) (s := s) rfl
  exact ⟨bne_taken, bne_untaken, beq_taken, beq_untaken⟩

end Sys2Proof.Machine
end

section
/-! PROOFS. Load-immediate (spec/44_load_store.md R193). What an 8-bit destination ignores of the immediate is decided where
the register is written, so the whole immediate is the value `alu16` is given for either width. -/

namespace Sys2Proof.Machine

/-- R193: the immediate is the result, and no flag is generated. -/
theorem exec_limm (an : Annot) (rd : OpX) (imm : Word) (s : State) :
    exec (.limm an rd imm) s = (s.advance an).alu16 an rd imm Gen.dc := rfl

/-- Settles O27, by the law of `alu16`: nothing is drawn, and `State.holds` compares bits 7:0 in an 8-bit register. -/
theorem limmWritesItsImmediate : Obligations.LimmWritesItsImmediate :=
  ⟨fun an rd imm s hf => completesWriting_of_alu16 0 (exec_limm an rd imm s) hf, fun _ _ _ _ => rfl⟩

end Sys2Proof.Machine
end

section
/-! PROOFS. The decoder and the encoder (spec/30_encoding.md R72 to R79, 60_exceptions R221): which instruction a word carries,
when the decoder accepts its fields, and which of its bits matter. -/

namespace Sys2Proof
open Sys2Proof.Claims Sys2Proof.Laws.EncodedHead

/-! ### The instruction that fields carry -/

/-- The operands of the instruction stand in their fields (30_encoding R79). -/
def operandsIn (x : Fields) : Instr → Prop
  | .add _ rd rs rt | .sub _ rd rs rt | .merge44 _ rd rs rt => x.rd = rd.spec ∧ x.rs = rs.spec ∧ x.rt = rt.spec
  | .add16 _ rd rs rt | .sub16 _ rd rs rt => x.rd = rd.spec ∧ x.rs = rs.spec ∧ x.rt = rt.spec
  | .and _ rd rs rt | .or _ rd rs rt | .xor _ rd rs rt => x.rd = rd.spec ∧ x.rs = rs.spec ∧ x.rt = rt.spec
  | .addi _ rd rs imm | .subi _ rd rs imm | .get4 _ rd rs imm | .getbit _ rd rs imm | .ngetbit _ rd rs imm
  | .setbit _ rd rs imm | .nsetbit _ rd rs imm | .inp _ rd rs imm | .out _ rd rs imm =>
    x.rd = rd.spec ∧ x.rs = rs.spec ∧ x.imm8 = imm
  | .addi16 _ rd rs imm | .subi16 _ rd rs imm => x.rd = rd.spec ∧ x.rs = rs.spec ∧ x.imm8 = imm
  | .andi _ rd rs imm | .ori _ rd rs imm | .xori _ rd rs imm | .bne _ rd rs imm | .beq _ rd rs imm =>
    x.rd = rd.spec ∧ x.rs = rs.spec ∧ x.imm8 = imm
  | .ld _ rd rs imm | .st _ rd rs imm => x.rd = rd.spec ∧ x.rs = rs.spec ∧ x.imm8 = imm
  | .shiftrotate _ rd rs sel => x.rd = rd.spec ∧ x.rs = rs.spec ∧ x.imm8 = sel.code
  | .not _ rd rs => x.rd = rd.spec ∧ x.rs = rs.spec
  | .daa _ rd rs => x.rd = rd.spec ∧ x.rs = rs.spec
  | .jrc _ rd rs => x.rd = rd.spec ∧ x.rs = rs.spec
  | .mvPC _ rd | .jr _ rd => x.rd = rd.spec
  | .mvIff _ rd imm => x.rd = rd.spec ∧ x.imm8 = imm
  | .limm _ rd imm | .jc _ rd imm => x.rd = rd.spec ∧ x.imm16 = imm
  | .im _ imm | .j _ imm => x.imm16 = imm
  | .ei _ | .di _ => True

/-- The fields carry the instruction: annotation, opcode and operands. -/
def Carries (x : Fields) (i : Instr) : Prop := x.an = i.annot ∧ x.op = opcode i ∧ operandsIn x i

/-- The word `encode` writes carries its instruction, by the law of the word's format. -/
theorem carries_encode {y : Config.Layout} (hy : y.wellFormed = true) (i : Instr) :
    Carries (fieldsOf y (encode y i)) i := by
  cases i
  case add | sub | merge44 | add16 | sub16 | and | or | xor => exact fieldsOf_wordRRR hy ..
  case addi | subi | get4 | getbit | ngetbit | setbit | nsetbit | inp | out | addi16 | subi16 | andi | ori | xori | bne
      | beq | ld | st | shiftrotate => exact fieldsOf_wordRRI hy ..
  case not an rd rs | daa an rd rs | jrc an rd rs =>
    obtain ⟨han, hop, hrd, hrs, -⟩ := fieldsOf_wordRRI hy an _ rd.spec rs.spec 0
    exact ⟨han, hop, hrd, hrs⟩
  case mvPC an rd =>
    obtain ⟨han, hop, hrd, -⟩ := fieldsOf_wordRRI hy an 0x10 rd.spec 0 0
    exact ⟨han, hop, hrd⟩
  case mvIff an rd imm =>
    obtain ⟨han, hop, hrd, -, himm⟩ := fieldsOf_wordRRI hy an 0x1C rd.spec 0 imm
    exact ⟨han, hop, hrd, himm⟩
  case limm | jc => exact fieldsOf_wordRI hy ..
  case jr an ra =>
    obtain ⟨han, hop, hrd, -⟩ := fieldsOf_wordRI hy an 0x21 ra.spec 0
    exact ⟨han, hop, hrd⟩
  case im an imm | j an imm =>
    obtain ⟨han, hop, -, himm⟩ := fieldsOf_wordRI hy an _ 0 imm
    exact ⟨han, hop, himm⟩
  case ei an | di an =>
    obtain ⟨han, hop, -⟩ := fieldsOf_wordRRR hy an _ 0 0 0
    exact ⟨han, hop, trivial⟩

/-- The decoder reads the instruction that the fields carry: every operand field answers its own register or selector. -/
theorem instrOf_of_carries {x : Fields} {i : Instr} (h : Carries x i) : instrOf x = .ok i := by
  obtain ⟨han, hop, hi⟩ := h
  cases i
  all_goals
    simp only [operandsIn] at hi
    simp [instrOf, opcode, Instr.annot, han, hop, hi] <;> rfl

theorem decode_of_carries {y : Config.Layout} {w : Iword} {i : Instr} (h : Carries (fieldsOf y w) i) :
    decode y w = checked i := by
  rw [decode, instrOf_of_carries h]

/-- Settles O1: the word carries its instruction, and the decoder reads what the fields carry. -/
theorem decodeOfEncodeIsTheInstruction : Obligations.DecodeOfEncodeIsTheInstruction := fun _ i hy hi =>
  (decode_of_carries (carries_encode hy i)).trans (checked_wellFormed hi)

/-! ### When the fields give an instruction -/

/-- The answer is a value for which `P` holds exactly when `ok`; a rejection, if it is one, has another reason than the
opcode. -/
def Reads {α : Type} (ok : Bool) (P : α → Prop) : Except Reject α → Prop
  | .ok v => ok = true ∧ P v
  | .error e => ok = false ∧ e ≠ .reservedOpcode

/-- `Reads` for a test, as a test. -/
def readsTest {α : Type} (ok : Bool) (test : α → Bool) : Except Reject α → Bool
  | .ok v => ok && test v
  | .error e => !ok && e != .reservedOpcode

theorem reads_of_test {α : Type} {ok : Bool} {test : α → Bool} {P : α → Prop} {a : Except Reject α}
    (h : readsTest ok test a = true) (hP : ∀ v, test v = true → P v) : Reads ok P a := by
  cases a with
  | ok v =>
    obtain ⟨hok, hv⟩ := Bool.and_eq_true_iff.mp h
    exact ⟨hok, hP v hv⟩
  | error e => simpa [readsTest, Reads] using h

section
variable {α β γ δ : Type} {p q r : Bool} {P : α → Prop} {Q : β → Prop} {R : γ → Prop} {S : δ → Prop}
  {a : Except Reject α} {b : Except Reject β} {c : Except Reject γ}

/-- One operand field and the rest of the word: both have to be accepted. -/
theorem reads_bind {f : α → Except Reject δ} (ha : Reads p P a) (hf : ∀ u, P u → Reads q S (f u)) :
    Reads (p && q) S (a >>= f) := by
  cases a with
  | ok u =>
    obtain ⟨rfl, hu⟩ := ha
    exact hf u hu
  | error e =>
    obtain ⟨rfl, he⟩ := ha
    exact ⟨rfl, he⟩

theorem reads_one {f : α → δ} (ha : Reads p P a) (hf : ∀ u, P u → S (f u)) : Reads p S (do return f (← a)) := by
  cases a with
  | ok u =>
    obtain ⟨hp, hu⟩ := ha
    exact ⟨hp, hf u hu⟩
  | error e => exact ha

theorem reads_two {f : α → β → δ} (ha : Reads p P a) (hb : Reads q Q b) (hf : ∀ u v, P u → Q v → S (f u v)) :
    Reads (p && q) S (do return f (← a) (← b)) :=
  reads_bind ha fun u hu => reads_one hb fun v hv => hf u v hu hv

theorem reads_three {f : α → β → γ → δ} (ha : Reads p P a) (hb : Reads q Q b) (hc : Reads r R c)
    (hf : ∀ u v w, P u → Q v → R w → S (f u v w)) : Reads (p && (q && r)) S (do return f (← a) (← b) (← c)) :=
  reads_bind ha fun u hu => reads_two hb hc fun v w hv hw => hf u v w hu hv hw

end

theorem field8_reads (s : BitVec 5) : Reads (fits .c8 s) (fun r => s = r.spec) (field8 s) := by
  have all : ∀ s, readsTest (fits .c8 s) (fun r => s == r.spec) (field8 s) = true := by decide
  exact reads_of_test (all s) fun _ => beq_iff_eq.mp

theorem fieldW_reads (s : BitVec 5) : Reads (fits .c16 s) (fun r => s = r.spec) (fieldW s) := by
  have all : ∀ s, readsTest (fits .c16 s) (fun r => s == r.spec) (fieldW s) = true := by decide
  exact reads_of_test (all s) fun _ => beq_iff_eq.mp

theorem fieldX_reads (s : BitVec 5) : Reads (fits .any s) (fun r => s = r.spec) (fieldX s) := by
  have all : ∀ s, readsTest (fits .any s) (fun r => s == r.spec) (fieldX s) = true := by decide
  exact reads_of_test (all s) fun _ => beq_iff_eq.mp

theorem shiftSelOf_reads (imm : Byte) :
    Reads (!decide (0x0B < imm.toNat)) (fun sel => imm = sel.code) (shiftSelOf imm) := by
  have all : ∀ imm, readsTest (!decide (0x0B < imm.toNat)) (fun sel => imm == sel.code) (shiftSelOf imm) = true := by decide
  exact reads_of_test (all imm) fun _ => beq_iff_eq.mp

/-- The operand fields of a word are legal for its opcode. -/
def operandsFit (x : Fields) : Bool :=
  (fits (classes x.op).1 x.rd && fits (classes x.op).2.1 x.rs && fits (classes x.op).2.2 x.rt) &&
  !(decide (x.op = 0x0D) && decide (0x0B < x.imm8.toNat))

theorem fits_unused (s : BitVec 5) : fits .unused s = true := rfl

theorem eq_ofNat_of_toNat_eq {w n : Nat} {v : BitVec w} (h : v.toNat = n) : v = BitVec.ofNat w n := by
  rw [← h, BitVec.ofNat_toNat, BitVec.setWidth_eq]

/-- The decoder, opcode by opcode. The alternatives bear the numbers of the arms of `instrOf`, the last one for the reserved
opcodes, and are grouped by the operand fields they read and the classes of those. -/
theorem instrOf_reads {x : Fields} (h : reserved x.op = false) : Reads (operandsFit x) (Carries x) (instrOf x) := by
  unfold instrOf
  split
  case h_40 =>
    simp only [reserved, decide_eq_false_iff_not, imp_false] at *
    omega
  all_goals
    rename_i hn
    have hop := eq_ofNat_of_toNat_eq hn
    simp only [operandsFit, classes, hn, fits_unused, ← BitVec.toNat_inj, BitVec.ofNat_eq_ofNat, BitVec.toNat_ofNat,
      Nat.reducePow, Nat.reduceMod, Nat.reduceEqDiff, decide_false, decide_true, Bool.false_and, Bool.true_and,
      Bool.not_false, Bool.and_true, Bool.and_assoc]
  case h_1 | h_3 | h_16 =>
    exact reads_three (field8_reads _) (field8_reads _) (field8_reads _) fun _ _ _ hd hs ht => ⟨rfl, hop, hd, hs, ht⟩
  case h_4 | h_6 =>
    exact reads_three (fieldW_reads _) (fieldW_reads _) (fieldW_reads _) fun _ _ _ hd hs ht => ⟨rfl, hop, hd, hs, ht⟩
  case h_7 | h_9 | h_11 =>
    exact reads_three (fieldX_reads _) (fieldX_reads _) (fieldX_reads _) fun _ _ _ hd hs ht => ⟨rfl, hop, hd, hs, ht⟩
  case h_14 =>
    exact reads_three (field8_reads _) (field8_reads _) (shiftSelOf_reads _) fun _ _ _ hd hs hi => ⟨rfl, hop, hd, hs, hi⟩
  case h_2 | h_15 | h_19 | h_20 | h_21 | h_22 | h_27 | h_38 | h_39 =>
    exact reads_two (field8_reads _) (field8_reads _) fun _ _ hd hs => ⟨rfl, hop, hd, hs, rfl⟩
  case h_5 | h_28 => exact reads_two (fieldW_reads _) (fieldW_reads _) fun _ _ hd hs => ⟨rfl, hop, hd, hs, rfl⟩
  case h_8 | h_10 | h_12 | h_34 | h_35 =>
    exact reads_two (fieldX_reads _) (fieldX_reads _) fun _ _ hd hs => ⟨rfl, hop, hd, hs, rfl⟩
  case h_36 | h_37 => exact reads_two (field8_reads _) (fieldW_reads _) fun _ _ hd hs => ⟨rfl, hop, hd, hs, rfl⟩
  case h_13 => exact reads_two (fieldX_reads _) (fieldX_reads _) fun _ _ hd hs => ⟨rfl, hop, hd, hs⟩
  case h_18 => exact reads_two (field8_reads _) (field8_reads _) fun _ _ hd hs => ⟨rfl, hop, hd, hs⟩
  case h_33 => exact reads_two (fieldX_reads _) (fieldW_reads _) fun _ _ hd hs => ⟨rfl, hop, hd, hs⟩
  case h_17 | h_31 => exact reads_one (fieldW_reads _) fun _ hd => ⟨rfl, hop, hd⟩
  case h_23 | h_29 | h_32 => exact reads_one (fieldX_reads _) fun _ hd => ⟨rfl, hop, hd, rfl⟩
  case h_24 | h_25 => exact ⟨rfl, rfl, hop, trivial⟩
  case h_26 | h_30 => exact ⟨rfl, rfl, hop, rfl⟩

theorem instrOf_of_reserved {x : Fields} (h : reserved x.op = true) : instrOf x = .error .reservedOpcode := by
  simp only [reserved, decide_eq_true_eq] at h
  unfold instrOf
  split
  case h_40 => rfl
  all_goals
    exfalso
    omega

/-! ### The check that F is written once -/

theorem writesRd_of_dest {x : Fields} {i : Instr} {d : OpX} (h : Carries x i) (hd : i.dest = some d) :
    writesRd x.op = true ∧ x.rd = d.spec := by
  obtain ⟨-, hop, hi⟩ := h
  rw [hop]
  cases i <;> cases hd
  case mvPC => exact ⟨rfl, hi⟩
  all_goals exact ⟨rfl, hi.1⟩

theorem writesRd_of_no_dest {x : Fields} {i : Instr} (h : Carries x i) (hd : i.dest = none) : writesRd x.op = false := by
  obtain ⟨-, hop, -⟩ := h
  rw [hop]
  cases i <;> cases hd <;> rfl

theorem OpX.holdsF_eq_spec (d : OpX) : d.holdsF = (decide (d.spec = 13) || decide (d.spec = 28)) := by
  cases d with
  | byte x => cases x <;> rfl
  | word x => cases x <;> rfl

/-- The word's fields name F as a destination while F_mask selects a bit of it. -/
def writesFTwice (x : Fields) : Bool :=
  writesRd x.op && (decide (x.rd = 13) || decide (x.rd = 28)) && decide (x.an.fMask ≠ 0)

theorem wellFormed_of_carries {x : Fields} {i : Instr} (h : Carries x i) : i.wellFormed = !writesFTwice x := by
  unfold Instr.wellFormed Instr.writesFOnce writesFTwice
  cases hd : i.dest with
  | none => simp [writesRd_of_no_dest h hd]
  | some d =>
    obtain ⟨hw, hrd⟩ := writesRd_of_dest h hd
    obtain ⟨han, -, -⟩ := h
    simp only [hw, hrd, han, OpX.holdsF_eq_spec, Bool.true_and, ne_eq, decide_not]
    rfl

/-! ### What the decoder answers -/

/-- What decoding can do: the opcode is reserved, an operand field is refused, or the fields carry an instruction, which the
last check accepts or refuses. -/
theorem decode_cases (y : Config.Layout) (w : Iword) :
    (reserved (fieldsOf y w).op = true ∧ decode y w = .error .reservedOpcode) ∨
    (reserved (fieldsOf y w).op = false ∧ operandsFit (fieldsOf y w) = false ∧
      ∃ e, e ≠ .reservedOpcode ∧ decode y w = .error e) ∨
    (reserved (fieldsOf y w).op = false ∧ operandsFit (fieldsOf y w) = true ∧
      ∃ i, Carries (fieldsOf y w) i ∧ decode y w = checked i) := by
  cases hr : reserved (fieldsOf y w).op with
  | true => exact .inl ⟨rfl, by rw [decode, instrOf_of_reserved hr]⟩
  | false =>
    have h := instrOf_reads hr
    cases hi : instrOf (fieldsOf y w) with
    | error e =>
      rw [hi] at h
      obtain ⟨hfit, he⟩ := h
      exact .inr (.inl ⟨rfl, hfit, e, he, by rw [decode, hi]⟩)
    | ok i =>
      rw [hi] at h
      obtain ⟨hfit, hc⟩ := h
      exact .inr (.inr ⟨rfl, hfit, i, hc, by rw [decode, hi]⟩)

theorem checked_eq (i : Instr) : checked i = if i.wellFormed then .ok i else .error .flagsWrittenTwice := rfl

theorem legalWord_eq (x : Fields) : legalWord x = (!reserved x.op && operandsFit x && !writesFTwice x) := by
  simp only [legalWord, operandsFit, writesFTwice, Bool.and_assoc]

/-- Settles O2: of the three things decoding can do, only the last gives an instruction, and then only where the check that F is
written once accepts it. -/
theorem decoderAcceptsExactlyTheLegalWords : Obligations.DecoderAcceptsExactlyTheLegalWords := by
  intro y w
  rw [legalWord_eq]
  rcases decode_cases y w with ⟨hr, hd⟩ | ⟨hr, hf, e, -, hd⟩ | ⟨hr, hf, i, hc, hd⟩
  · simp [hr, hd]
  · simp [hr, hf, hd]
  · have hw := wellFormed_of_carries hc
    cases h : writesFTwice (fieldsOf y w) <;> simp [hr, hf, hd, checked_eq, hw, h]

/-- Settles O4: of the three things decoding can do, only the first gives that reason; a step takes it over. -/
theorem reservedOpcodesAreRefused : Obligations.ReservedOpcodesAreRefused := by
  have decoder (y : Config.Layout) (w : Iword) :
      reserved (fieldsOf y w).op = true ↔ decode y w = .error .reservedOpcode := by
    rcases decode_cases y w with ⟨hr, hd⟩ | ⟨hr, -, e, he, hd⟩ | ⟨hr, -, i, -, hd⟩
    · simp [hr, hd]
    · simp [hr, hd, he]
    · cases h : i.wellFormed <;> simp [hr, hd, checked_eq, h]
  refine ⟨decoder, fun s hrst hr => ?_⟩
  simp [Machine.step, hrst, (decoder _ _).mp hr]

end Sys2Proof
end

section
/-! PROOFS. The bits of a word that its opcode uses (spec/30_encoding.md R76): the decoder reads no other, and the encoder writes
no other. -/

namespace Sys2Proof
open Sys2Proof.Claims Sys2Proof.Laws.EncodedHead

/-! ### Bits that two words share -/

theorem getLsbD_bitsAt (k n j : Nat) : (bitsAt k n).getLsbD j = decide (j < 39 ∧ k ≤ j ∧ j < k + n) := by
  simp only [bitsAt, placed, BitVec.getLsbD_shiftLeft, BitVec.getLsbD_setWidth, BitVec.getLsbD_allOnes]
  grind

/-- The two words have the same bits where `m` has a 1. -/
def AgreeOn (m w v : Iword) : Prop := w &&& m = v &&& m

theorem agreeOn_iff {m w v : Iword} :
    AgreeOn m w v ↔ ∀ j, m.getLsbD j = true → w.getLsbD j = v.getLsbD j := by
  unfold AgreeOn
  constructor
  · intro h j hj
    simpa [hj] using congrArg (fun x : Iword => x.getLsbD j) h
  · intro h
    apply BitVec.eq_of_getLsbD_eq
    intro j _
    cases hj : m.getLsbD j with
    | false => simp [hj]
    | true => simp [hj, h j hj]

theorem agreeOn_or {m n w v : Iword} : AgreeOn (m ||| n) w v ↔ AgreeOn m w v ∧ AgreeOn n w v := by
  simp only [agreeOn_iff, BitVec.getLsbD_or, Bool.or_eq_true, or_imp, forall_and]

/-- Words that agree on the bits of a field hold the same value in it. -/
theorem agreeOn_bitsAt {k n : Nat} {w v : Iword} : AgreeOn (bitsAt k n) w v ↔ w.extractLsb' k n = v.extractLsb' k n := by
  rw [agreeOn_iff]
  constructor
  · intro h
    apply BitVec.eq_of_getLsbD_eq
    intro i hi
    simp only [BitVec.getLsbD_extractLsb', hi, decide_true, Bool.true_and]
    by_cases hk : k + i < 39
    · exact h _ (by rw [getLsbD_bitsAt]; grind)
    · rw [BitVec.getLsbD_of_ge _ _ (by omega), BitVec.getLsbD_of_ge _ _ (by omega)]
  · intro h j hj
    rw [getLsbD_bitsAt, decide_eq_true_eq] at hj
    have hf := congrArg (fun x => x.getLsbD (j - k)) h
    simpa [show k + (j - k) = j by omega, show j - k < n by omega] using hf

theorem agreeOn_bit {k : Nat} {w v : Iword} (h : AgreeOn (bitsAt k 1) w v) : w.getLsbD k = v.getLsbD k := by
  simpa using congrArg (fun x => x.getLsbD 0) (agreeOn_bitsAt.mp h)

theorem headBits_congr {y : Config.Layout} {w v : Iword} (h : AgreeOn (headBits y) w v) :
    (fieldsOf y w).an = (fieldsOf y v).an ∧ (fieldsOf y w).op = (fieldsOf y v).op := by
  simp only [headBits, agreeOn_or] at h
  obtain ⟨⟨⟨hpc, hfm⟩, heoi⟩, hop⟩ := h
  simp only [fieldsOf, agreeOn_bitsAt.mp hpc, agreeOn_bitsAt.mp hfm, agreeOn_bit heoi, agreeOn_bitsAt.mp hop, and_self]

theorem headBits_of_usedBits {y : Config.Layout} {op : BitVec 6} {w v : Iword} (h : AgreeOn (usedBits y op) w v) :
    AgreeOn (headBits y) w v := by
  unfold usedBits at h
  split at h <;> simp_all only [agreeOn_or]

/-- The decoder reads only fields whose bits the opcode uses. -/
theorem instrOf_congr {y : Config.Layout} {w v : Iword} (h : AgreeOn (usedBits y (fieldsOf y w).op) w v) :
    instrOf (fieldsOf y w) = instrOf (fieldsOf y v) := by
  obtain ⟨han, hop⟩ := headBits_congr (headBits_of_usedBits h)
  unfold instrOf
  rw [← hop, ← han]
  split
  all_goals
    rename_i hn
    simp only [usedBits, hn, agreeOn_or, agreeOn_bitsAt] at h
  all_goals simp only [fieldsOf, h]

/-! ### Bits that `encode` writes -/

/-- Every 1 of the word is a 1 of the mask. -/
def Within (w m : Iword) : Prop := w &&& m = w

theorem within_iff {w m : Iword} : Within w m ↔ ∀ j, w.getLsbD j = true → m.getLsbD j = true := by
  unfold Within
  constructor
  · intro h j hj
    rw [← h, BitVec.getLsbD_and, Bool.and_eq_true] at hj
    exact hj.2
  · intro h
    apply BitVec.eq_of_getLsbD_eq
    intro j _
    rw [BitVec.getLsbD_and, Bool.and_eq_left_iff_imp]
    exact h j

theorem within_zero (k : Nat) {n : Nat} (m : Iword) : Within (placed k 0#n) m := by
  simp [Within, placed]

theorem within_bitsAt {k n : Nat} (x : BitVec n) : Within (placed k x) (bitsAt k n) := by
  rw [within_iff]
  intro j hj
  simp only [placed, BitVec.getLsbD_shiftLeft, BitVec.getLsbD_setWidth, Bool.and_eq_true, decide_eq_true_eq,
    Bool.not_eq_true', decide_eq_false_iff_not] at hj
  have hlt := BitVec.lt_of_getLsbD hj.2.2
  rw [getLsbD_bitsAt, decide_eq_true_eq]
  omega

theorem within_or {w v m : Iword} (hw : Within w m) (hv : Within v m) : Within (w ||| v) m := by
  simp only [within_iff, BitVec.getLsbD_or, Bool.or_eq_true] at *
  exact fun j hj => hj.elim (hw j) (hv j)

theorem within_or_or {w v m n : Iword} (hw : Within w m) (hv : Within v n) : Within (w ||| v) (m ||| n) := by
  simp only [within_iff, BitVec.getLsbD_or, Bool.or_eq_true] at *
  exact fun j hj => hj.imp (hw j) (hv j)

theorem within_wordHead (y : Config.Layout) (an : Annot) (op : BitVec 6) : Within (wordHead y an op) (headBits y) :=
  within_or_or (within_or_or (within_or_or (within_bitsAt _) (within_bitsAt _)) (within_bitsAt _)) (within_bitsAt _)

/-- The head and the field Rd, with which every word begins that has an operand there. -/
theorem within_rd (y : Config.Layout) (an : Annot) (op : BitVec 6) (rd : BitVec 5) :
    Within (wordHead y an op ||| placed y.rd rd) (headBits y ||| bitsAt y.rd 5) :=
  within_or_or (within_wordHead y an op) (within_bitsAt rd)

theorem within_rs (y : Config.Layout) (an : Annot) (op : BitVec 6) (rd rs : BitVec 5) :
    Within (wordHead y an op ||| placed y.rd rd ||| placed y.rs rs) (headBits y ||| bitsAt y.rd 5 ||| bitsAt y.rs 5) :=
  within_or_or (within_rd y an op rd) (within_bitsAt rs)

/-- Every 1 of the word `encode` writes lies in a field its opcode uses: the field of an operand, or a field that is 0. -/
theorem encode_within (y : Config.Layout) (i : Instr) : Within (encode y i) (usedBits y (opcode i)) := by
  cases i
  case add | sub | merge44 | add16 | sub16 | and | or | xor => exact within_or_or (within_rs ..) (within_bitsAt _)
  case addi | subi | get4 | getbit | ngetbit | setbit | nsetbit | inp | out | addi16 | subi16 | andi | ori | xori | bne
      | beq | ld | st | shiftrotate => exact within_or_or (within_rs ..) (within_bitsAt _)
  case not | daa | jrc => exact within_or (within_rs ..) (within_zero ..)
  case mvPC => exact within_or (within_or (within_rd ..) (within_zero ..)) (within_zero ..)
  case jr => exact within_or (within_rd ..) (within_zero ..)
  case mvIff => exact within_or_or (within_or (within_rd ..) (within_zero ..)) (within_bitsAt _)
  case limm | jc => exact within_or_or (within_rd ..) (within_bitsAt _)
  case im | j => exact within_or_or (within_or (within_wordHead ..) (within_zero ..)) (within_bitsAt _)
  case ei | di =>
    exact within_or (within_or (within_or (within_wordHead ..) (within_zero ..)) (within_zero ..)) (within_zero ..)

/-- Settles O3: the decoder reads only used fields, and the encoder writes only into them. -/
theorem unusedBitsAreIgnored : Obligations.UnusedBitsAreIgnored := by
  refine ⟨fun y w v h => ?_, fun y i hy => ?_⟩
  · rw [decode, decode, instrOf_congr h]
  · obtain ⟨-, hop, -⟩ := carries_encode hy i
    rw [hop]
    exact encode_within y i

/-! ### Words written out -/

/-- Settles O5, by evaluation of the words and specifiers written out. -/
theorem wordsWrittenOutDecode : Obligations.WordsWrittenOutDecode := by
  refine ⟨by decide, by decide, by decide, by decide, by decide, by decide, by decide⟩

end Sys2Proof
end

section
/-! PROOFS. The plain nop and the filler (spec/30_encoding.md R82), and through the filler what an interrupt window does
(60_exceptions R228). -/

namespace Sys2Proof.Machine
open Sys2Proof.Claims

theorem State.advance_zero {an : Annot} (h : an.pcDisp = 0) (s : State) : s.advance an = s := by
  simp [State.advance, h]

/-- `add R0, R0, R0` with PC_disp 0 and F_mask 0 does what its EOI asks for, and nothing else. -/
theorem exec_nop {an : Annot} (hpc : an.pcDisp = 0) (hfm : an.fMask = 0#8) (s : State) :
    exec (.add an .r0 .r0 .r0) s = .next (s.closed an) := by
  change (s.advance an).alu8 an .r0 _ _ = _
  rw [State.alu8_eq, State.alu16_next _ _ _ _ _ (fun h => absurd h (by decide)), State.advance_zero hpc, hfm, State.setFlags_zero]
  rfl

theorem carries_zero (y : Config.Layout) : Carries (fieldsOf y 0x0000000000#39) (.add (ann 0 0 false) .r0 .r0 .r0) := by
  have zero (k n : Nat) : (0x0000000000#39).extractLsb' k n = 0#n := by
    apply BitVec.eq_of_getLsbD_eq
    simp
  simp only [Carries, operandsIn, fieldsOf, zero, BitVec.getLsbD_zero]
  exact ⟨rfl, rfl, rfl, rfl, rfl⟩

/-- Settles O48: the zero word carries the nop in every layout, and the filler differs from it in EOI. -/
theorem fillerOnlyOpensAWindow : Obligations.FillerOnlyOpensAWindow := by
  refine ⟨by decide, fun y => ⟨_, decode_of_carries (carries_zero y), exec_nop rfl rfl⟩,
    fun y hy => ⟨_, decodeOfEncodeIsTheInstruction y _ hy rfl, exec_nop rfl rfl⟩, fun s hs => ?_⟩
  rw [State.nextWord, hs, List.headD_nil]

/-- Settles O42: the filler is the state's window, which enters the held interrupt if there is one. -/
theorem windowEntersTheHeldInterrupt : Obligations.WindowEntersTheHeldInterrupt := by
  intro s
  have filler : exec (.add (ann 0 0 true) .r0 .r0 .r0) s = .next s.window := exec_nop rfl rfl s
  exact ⟨fun h => by rw [filler, State.window_none h], fun k h => by rw [filler, State.window_some h]⟩

end Sys2Proof.Machine
end

section
/-! PROOFS. What an instruction leaves alone, whichever it is: the parts of the state that flags, flush and window do not reach
keep what the instruction's own effect leaves in them (`Core`). -/

namespace Sys2Proof.Machine
open Sys2Proof.Claims

/-! ### Steps 5 to 7 of the common sequence -/

/-- A part of the state that SetFlags, a flush and the count of `ei_hold` leave alone. -/
structure Untouched {α : Type} (part : State → α) : Prop where
  setFlags : ∀ s fm g, part (s.setFlags fm g) = part s
  flush : ∀ s t, part (s.flush t) = part s
  eiHold : ∀ s n, part { s with eiHold := n } = part s

section
variable {α : Type} {part : State → α}

theorem Untouched.window (hp : Untouched part) {s : State}
    (he : s.pend = none ∨ ∀ u k, part (u.interruptEntry k) = part u) : part s.window = part s := by
  rcases s.window_cases with ⟨_, hw⟩ | ⟨k, hk, hw⟩
  · rw [hw, hp.eiHold]
  · rw [hw, hp.eiHold]
    exact (he.resolve_left (by simp [hk])) s k

/-- Flags, flush and window leave the part alone, where no interrupt is entered or entry leaves it alone too. -/
theorem Untouched.finish (hp : Untouched part) {s : State} (an : Annot) (g : Gen) (taken : Option Word)
    (he : s.pend = none ∨ ∀ u k, part (u.interruptEntry k) = part u) : part (s.finish an g taken) = part s := by
  cases taken with
  | some t => rw [State.finish_some, hp.window (by exact he), hp.flush, hp.setFlags]
  | none =>
    rw [State.finish_none, State.closed]
    split
    · rw [hp.window (by exact he), hp.setFlags]
    · exact hp.setFlags ..

/-- An instruction leaves a part alone that its own effect, flags, flush, and interrupt entry if there is one, leave alone. -/
theorem Untouched.exec (hp : Untouched part) {i : Instr} {s t : State} (h : exec i s = .next t)
    (he : s.pend = none ∨ ∀ u k, part (u.interruptEntry k) = part u) (hc : ∀ u, Core i s u → part u = part s) :
    part t = part s := by
  obtain ⟨u, g, taken, core, rfl, -⟩ := exec_next h
  rw [hp.finish _ _ _ (by rwa [core.pend]), hc u core]

end

theorem untouched_iff1 : Untouched State.iff1 := ⟨fun _ _ _ => rfl, fun _ _ => rfl, fun _ _ => rfl⟩
theorem untouched_iff2 : Untouched State.iff2 := ⟨fun _ _ _ => rfl, fun _ _ => rfl, fun _ _ => rfl⟩
theorem untouched_pend : Untouched State.pend := ⟨fun _ _ _ => rfl, fun _ _ => rfl, fun _ _ => rfl⟩
theorem untouched_mem : Untouched State.mem := ⟨fun _ _ _ => rfl, fun _ _ => rfl, fun _ _ => rfl⟩
theorem untouched_cfg : Untouched State.cfg := ⟨fun _ _ _ => rfl, fun _ _ => rfl, fun _ _ => rfl⟩
theorem untouched_xlateTable : Untouched State.xlateTable := ⟨fun _ _ _ => rfl, fun _ _ => rfl, fun _ _ => rfl⟩
theorem untouched_ioLog : Untouched State.ioLog := ⟨fun _ _ _ => rfl, fun _ _ => rfl, fun _ _ => rfl⟩

theorem untouched_valX {p : OpX} (hp : overlaps (.byte .f) p = false) : Untouched fun s => s.valX p :=
  ⟨fun s fm g => s.setFlags_valX fm g p hp, fun _ _ => rfl, fun _ _ => rfl⟩

/-! ### The bytes of a word, as numbers -/

theorem hi8_eq_ofNat (v : Word) : hi8 v = BitVec.ofNat 8 (v.toNat / 256) := by
  apply BitVec.eq_of_toNat_eq
  simp [hi8, Nat.shiftRight_eq_div_pow]

theorem lo8_eq_ofNat (v : Word) : lo8 v = BitVec.ofNat 8 v.toNat := by
  apply BitVec.eq_of_toNat_eq
  simp [lo8]

/-! ### Interrupt entry -/

/-- Entry leaves every register that shares no storage with SP and the temporaries. -/
theorem State.interruptEntry_valX (s : State) (k : Irq) {p : OpX} (hp : entryWrites p = false) :
    (s.interruptEntry k).valX p = s.valX p := by
  cases p with
  | byte x => cases x <;> first | rfl | cases hp
  | word x => cases x <;> first | rfl | cases hp

/-- The memory after entry, byte by byte: that of two stores below SP. -/
theorem State.interruptEntry_readMem (s : State) (k : Irq) (a : Word) :
    (s.interruptEntry k).readMem a =
      ((s.writeMem (s.regs.sp - 1) (hi8 s.archPC)).writeMem (s.regs.sp - 2) (lo8 s.archPC)).readMem a := by
  have second : s.regs.sp - 1 - 1 = s.regs.sp - 2 := by rw [BitVec.sub_sub]; rfl
  rw [← second]
  exact State.readMem_congr (s.interruptEntry_mem k) a

/-- Settles O41: the two stores go to different addresses, so each of them is seen where there is RAM. -/
theorem entryPushesTheReturnAddress : Obligations.EntryPushesTheReturnAddress := by
  intro s k
  have apart : s.regs.sp - 1 ≠ s.regs.sp - 2 := by bv_omega
  refine ⟨?_, fun hram => ?_, fun hram => ?_, fun a ha => ?_, by cases k <;> rfl, rfl, rfl, rfl, rfl,
    fun p hp => s.interruptEntry_valX k hp, ⟨rfl, rfl, rfl⟩, ⟨rfl, rfl⟩, rfl, rfl, rfl, rfl⟩
  · rw [State.interruptEntry_regs, BitVec.sub_sub]
    rfl
  · rw [State.interruptEntry_readMem, State.readMem_writeMem_other (.inl apart), State.readMem_writeMem_self hram,
      hi8_eq_ofNat]
  · rw [State.interruptEntry_readMem, State.readMem_writeMem_self (s := s.writeMem _ _) hram, lo8_eq_ofNat]
  · have first : a ≠ s.regs.sp - 1 ∨ s.kindAt (s.regs.sp - 1) ≠ .ram := by grind
    have second : a ≠ s.regs.sp - 2 ∨ s.kindAt (s.regs.sp - 2) ≠ .ram := by grind
    rw [State.interruptEntry_readMem, State.readMem_writeMem_other (s := s.writeMem _ _) second,
      State.readMem_writeMem_other first]

/-! ### The statements about every instruction -/

/-- Settles O44: such a word ends with its flags, without flush and without window. -/
theorem noEntryInsideATranslationGroup : Obligations.NoEntryInsideATranslationGroup := by
  intro i s t heoi hi h
  obtain ⟨u, g, taken, core, rfl, htaken⟩ := exec_next h
  cases taken with
  | some a => exact absurd (htaken rfl) (by simp [hi])
  | none =>
    have ends : u.finish i.annot g none = u.setFlags i.annot.fMask g := by
      rw [State.finish_none, State.closed, heoi]
      rfl
    rw [ends]
    exact ⟨core.pend, core.archPC, core.fetchPC, core.queue, core.prefetched⟩

/-- Settles O51: interrupt entry leaves the flip-flops alone too. -/
theorem onlyEiAndDiWriteTheFlipFlops : Obligations.OnlyEiAndDiWriteTheFlipFlops := by
  intro i s t hi h
  exact ⟨untouched_iff1.exec h (.inr fun _ _ => rfl) fun u core => (core.iff hi).1,
    untouched_iff2.exec h (.inr fun _ _ => rfl) fun u core => (core.iff hi).2.1⟩

/-- Settles O52: with no interrupt held there is no entry, whose pushes are the only other stores. -/
theorem onlyStoresChangeMemory : Obligations.OnlyStoresChangeMemory := by
  intro i s t hi hp h
  exact State.readMem_congr (untouched_mem.exec h (.inl hp) fun u core => core.mem hi)

/-- Settles O54: the register is no part of F, and either there is no entry or entry leaves it alone. -/
theorem onlyTheDestinationRegisterChanges : Obligations.OnlyTheDestinationRegisterChanges := by
  intro i s t p h hd hf he
  exact (untouched_valX hf).exec h (he.imp_right fun hw u k => u.interruptEntry_valX k hw) fun u core => core.regs p hd

end Sys2Proof.Machine
end

section
/-! PROOFS. When an instruction completes and when it is refused (spec/10_state.md R33, 60_exceptions R220, R221). -/

namespace Sys2Proof.Machine

/-- The meaning ends in `retireWrite`, which is where F written twice is refused. -/
def EndsInWrite (an : Annot) (d : OpX) (out : Host.Outcome State Fault Refusal) : Prop :=
  ∃ u g, out = State.retireWrite u an d g

theorem endsInWrite_ite {an : Annot} {d : OpX} {c : Prop} [Decidable c] {x y : Host.Outcome State Fault Refusal}
    (hx : EndsInWrite an d x) (hy : EndsInWrite an d y) : EndsInWrite an d (if c then x else y) := by
  split
  · exact hx
  · exact hy

theorem exec_of_dest {i : Instr} {d : OpX} (s : State) (hd : i.dest = some d) : EndsInWrite i.annot d (exec i s) := by
  cases i <;> cases hd
  case getbit | ngetbit | setbit | nsetbit => exact endsInWrite_ite ⟨_, _, rfl⟩ ⟨_, _, rfl⟩
  case mvIff => exact endsInWrite_ite ⟨_, _, rfl⟩ (endsInWrite_ite ⟨_, _, rfl⟩ ⟨_, _, rfl⟩)
  all_goals exact ⟨_, _, rfl⟩

theorem exec_of_no_dest {i : Instr} (s : State) (hd : i.dest = none) : ∃ t, exec i s = .next t := by
  cases i <;> cases hd <;> exact ⟨_, rfl⟩

/-- Settles O8: every instruction with a destination ends in the check that refuses it. -/
theorem writingFlagsTwiceIsRefused : Obligations.WritingFlagsTwiceIsRefused := by
  intro i d s hd hF hm
  obtain ⟨u, g, he⟩ := exec_of_dest s hd
  rcases u.retireWrite_cases i.annot d g with ⟨-, -, hr⟩ | ⟨hz, -⟩
  · rw [he, hr]
  · exact absurd (hz hF) hm

theorem exec_completes {i : Instr} (s : State) (hi : i.wellFormed = true) : ∃ t, exec i s = .next t := by
  cases hd : i.dest with
  | none => exact exec_of_no_dest s hd
  | some d =>
    obtain ⟨u, g, he⟩ := exec_of_dest s hd
    rcases u.retireWrite_cases i.annot d g with ⟨hF, hm, -⟩ | ⟨-, hn⟩
    · exact absurd (by simpa [Instr.wellFormed, Instr.writesFOnce, hd, hF] using hi) hm
    · exact ⟨_, he.trans hn⟩

/-! ### A step stops only for its word -/

theorem wellFormed_of_checked {i j : Instr} (h : checked i = .ok j) : j.wellFormed = true := by
  rw [checked_eq] at h
  split at h
  · cases h
    assumption
  · cases h

theorem wellFormed_of_decode {y : Config.Layout} {w : Iword} {i : Instr} (h : decode y w = .ok i) :
    i.wellFormed = true := by
  rcases decode_cases y w with ⟨-, hd⟩ | ⟨-, -, e, -, hd⟩ | ⟨-, -, j, -, hd⟩
  · cases hd.symm.trans h
  · cases hd.symm.trans h
  · exact wellFormed_of_checked (hd.symm.trans h)

theorem step_of_rst {s : State} (h : s.tick.rst = true) : step s = .next (s.inputsSet s.tick).resetRoutine := by
  rw [step, if_pos h]

theorem step_of_decode {s : State} {i : Instr} (hr : s.tick.rst = false)
    (hd : decode s.cfg.layout s.prepared.nextWord = .ok i) : step s = exec i s.prepared.dequeued := by
  simp [step, hr, hd]

theorem step_of_reject {s : State} {e : Reject} (hr : s.tick.rst = false)
    (hd : decode s.cfg.layout s.prepared.nextWord = .error e) : step s = .refused (.badWord e) := by
  simp [step, hr, hd]

/-- Settles O60: what the decoder gives is well formed, and a well-formed instruction is past the one check of `exec`. -/
theorem onlyAWordWithoutMeaningStopsAStep : Obligations.OnlyAWordWithoutMeaningStopsAStep := by
  refine ⟨fun i s hi => exec_completes s hi, fun s => ?_⟩
  cases hr : s.tick.rst with
  | true => exact .inl ⟨_, step_of_rst hr⟩
  | false =>
    cases hd : decode s.cfg.layout s.prepared.nextWord with
    | error e => exact .inr ⟨rfl, e, rfl, step_of_reject hr hd⟩
    | ok i =>
      obtain ⟨t, ht⟩ := exec_completes s.prepared.dequeued (wellFormed_of_decode hd)
      exact .inl ⟨t, (step_of_decode hr hd).trans ht⟩

end Sys2Proof.Machine
end

section
/-! PROOFS. What every step keeps: the invariant of the state's own data, the parameters and the log; and what the reset routine
does (spec/20_memory.md R52, R55, 45_interrupt_control R200, 70_reset R260, R261). -/

namespace Sys2Proof.Machine

/-! ### The invariant -/

theorem State.inv_iff {s : State} :
    s.inv = true ↔ Memory.wf s.mem = true ∧ Memory.wf s.prefetched = true ∧ s.eiHold ≤ s.cfg.eiDelay := by
  simp only [State.inv, Bool.and_eq_true, decide_eq_true_eq, and_assoc]

theorem State.window_inv {s : State} (h : s.inv = true) : s.window.inv = true := by
  obtain ⟨hmem, hpre, hhold⟩ := State.inv_iff.mp h
  have hcount : s.eiHold - 1 ≤ s.cfg.eiDelay := (Nat.sub_le ..).trans hhold
  rcases s.window_cases with ⟨-, hw⟩ | ⟨k, -, hw⟩
  · rw [hw]
    exact State.inv_iff.mpr ⟨hmem, hpre, hcount⟩
  · rw [hw]
    exact State.inv_iff.mpr ⟨State.interruptEntry_wf s k hmem, rfl, hcount⟩

theorem State.setFlags_inv {s : State} (fm : Byte) (g : Gen) (h : s.inv = true) : (s.setFlags fm g).inv = true := h

theorem State.flush_inv {s : State} (t : Word) (h : s.inv = true) : (s.flush t).inv = true := by
  obtain ⟨hmem, -, hhold⟩ := State.inv_iff.mp h
  exact State.inv_iff.mpr ⟨hmem, rfl, hhold⟩

theorem State.finish_inv {s : State} (an : Annot) (g : Gen) (taken : Option Word) (h : s.inv = true) :
    (s.finish an g taken).inv = true := by
  cases taken with
  | some t => exact State.window_inv (State.flush_inv t (State.setFlags_inv an.fMask g h))
  | none =>
    rw [State.finish_none, State.closed]
    split
    · exact State.window_inv (State.setFlags_inv an.fMask g h)
    · exact State.setFlags_inv an.fMask g h

/-- An instruction's own effect keeps the invariant: `ei_hold` stays, or becomes EI_DELAY or 0. -/
theorem Core.inv {i : Instr} {s u : State} (core : Core i s u) (h : s.inv = true) : u.inv = true := by
  obtain ⟨hmem, hpre, hhold⟩ := State.inv_iff.mp h
  refine State.inv_iff.mpr ⟨core.memWf hmem, by rwa [core.prefetched], ?_⟩
  rw [core.cfg]
  rcases core.hold with hu | hu | hu <;> omega

theorem exec_inv {i : Instr} {s t : State} (h : s.inv = true) (he : exec i s = .next t) : t.inv = true := by
  obtain ⟨u, g, taken, core, rfl, -⟩ := exec_next he
  exact State.finish_inv _ _ _ (core.inv h)

theorem State.prepared_prefetched_wf {s : State} (h : Memory.wf s.prefetched = true) :
    Memory.wf s.prepared.prefetched = true := by
  obtain ⟨p, f, hr⟩ := (s.inputsSet s.tick).receiveIf_eq s.tick.receive
  rw [State.prepared, hr]
  exact State.translateGroups_wf _ _ (State.heldBytes_wf _ _ h)

theorem State.prepared_inv {s : State} (h : s.inv = true) : s.prepared.inv = true := by
  obtain ⟨hmem, hpre, hhold⟩ := State.inv_iff.mp h
  have hpre' := State.prepared_prefetched_wf hpre
  obtain ⟨p, f, q, a, m, d, heq⟩ := s.prepared_eq
  rw [heq] at hpre' ⊢
  exact State.inv_iff.mpr ⟨hmem, hpre', hhold⟩

/-- Settles O56: the reset routine clears what it does not keep, and otherwise the environment's part, the instruction's own
effect and its end keep the invariant one after another. -/
theorem stepKeepsTheStateInvariant : Obligations.StepKeepsTheStateInvariant := by
  intro s t h hstep
  rcases step_next hstep with ⟨-, rfl⟩ | ⟨-, i, -, he⟩
  · obtain ⟨hmem, -, -⟩ := State.inv_iff.mp h
    exact State.inv_iff.mpr ⟨hmem, rfl, Nat.zero_le _⟩
  · exact exec_inv (s := s.prepared.dequeued) (State.prepared_inv h) he

/-- Settles O57: nothing is stored, nothing is held, and `ei_hold` is 0. -/
theorem resetHasTheStateInvariant : Obligations.ResetHasTheStateInvariant :=
  State.inv_iff.mpr ⟨reset_mem_wf, rfl, Nat.le_refl 0⟩

/-! ### Parameters and log -/

theorem State.prepared_frame (s : State) :
    s.prepared.cfg = s.cfg ∧ s.prepared.xlateTable = s.xlateTable ∧ s.prepared.ioLog = s.ioLog := by
  obtain ⟨p, f, q, a, m, d, heq⟩ := s.prepared_eq
  rw [heq]
  exact ⟨rfl, rfl, rfl⟩

/-- Settles O55: neither the environment's part nor an instruction, its end included, writes them. -/
theorem stepKeepsTheParameters : Obligations.StepKeepsTheParameters := by
  intro s t hstep
  rcases step_next hstep with ⟨-, rfl⟩ | ⟨-, i, -, he⟩
  · exact ⟨rfl, rfl⟩
  · obtain ⟨hcfg, htable, -⟩ := s.prepared_frame
    exact ⟨(untouched_cfg.exec he (.inr fun _ _ => rfl) fun u core => core.cfg).trans hcfg,
      (untouched_xlateTable.exec he (.inr fun _ _ => rfl) fun u core => core.xlateTable).trans htable⟩

/-- What an instruction adds to the log: one event at most, and none if it is neither `in` nor `out`. -/
theorem exec_ioLog {i : Instr} {s t : State} (he : exec i s = .next t) :
    ∃ evs, t.ioLog = s.ioLog ++ evs ∧ evs.length ≤ 1 ∧ (evs ≠ [] → isIo i = true) := by
  obtain ⟨u, g, taken, core, rfl, -⟩ := exec_next he
  rw [untouched_ioLog.finish _ _ _ (.inr fun _ _ => rfl)]
  obtain ⟨evs, hlog, hlen⟩ := core.log
  refine ⟨evs, hlog, hlen, fun hne => ?_⟩
  cases hi : isIo i with
  | true => rfl
  | false =>
    have same : s.ioLog = s.ioLog ++ evs := (core.io hi).1.symm.trans hlog
    exact absurd (List.self_eq_append_right.mp same) hne

/-- Settles O53: the environment's part and the reset routine add nothing. -/
theorem ioEventsAreNeverLostOrReordered : Obligations.IoEventsAreNeverLostOrReordered := by
  intro s t hstep
  rcases step_next hstep with ⟨-, rfl⟩ | ⟨-, i, hd, he⟩
  · exact ⟨[], (List.append_nil _).symm, Nat.zero_le 1, fun h => absurd rfl h⟩
  · obtain ⟨-, -, hlog⟩ := s.prepared_frame
    obtain ⟨evs, ht, hlen, hio⟩ := exec_ioLog he
    exact ⟨evs, by rw [ht, State.dequeued_ioLog, hlog], hlen, fun hne => ⟨i, hd, hio hne⟩⟩

/-! ### Reset -/

/-- Settles O58, by the fields of the state after reset. -/
theorem resetIsAsTheSpecSays : Obligations.ResetIsAsTheSpecSays :=
  ⟨rfl, rfl, rfl, rfl, rfl, rfl, rfl, rfl, Regs.read8_r0 _⟩

/-- Settles O59: the step is the reset routine at the state with the inputs of its tick. -/
theorem resetInputResetsTheCore : Obligations.ResetInputResetsTheCore := fun _ hr =>
  ⟨_, step_of_rst hr, rfl, rfl, rfl, rfl, rfl, rfl, rfl, fun _ => rfl, ⟨rfl, rfl⟩, rfl, rfl⟩

end Sys2Proof.Machine
end

section
/-! PROOFS. Before a word runs: reception (spec/60_exceptions.md R226), the translator and the queue (30_encoding R81, 20_memory
R62); and the end of a run (70_reset R264). -/

namespace Sys2Proof.Machine

/-! ### Reception -/

theorem State.receive_of_pend {s : State} (h : s.pend ≠ none) : s.receive = s := by
  cases hp : s.pend with
  | none => exact absurd hp h
  | some k => simp [State.receive, hp]

/-- Settles O40, by the branches of reception. -/
theorem receptionHoldsOneInterrupt : Obligations.ReceptionHoldsOneInterrupt := by
  intro s
  refine ⟨State.receive_of_pend, fun hp hn => ?_, fun hp hn hi hf he => ?_, fun hp hn hor => ?_⟩
  · simp [State.receive, hp, hn]
  · simp [State.receive, hp, hn, hi, hf, he]
  · have blocked : (s.intReq && s.iff1 && s.eiHold == 0) = false := by
      rcases hor with h | h | h <;> simp [h]
    simp [State.receive, hp, hn, blocked]

/-- Where the environment makes no reception happen, or it finds an interrupt held, it changes nothing. -/
theorem State.receiveIf_idle {s : State} {b : Bool} (h : b = false ∨ s.pend ≠ none) : s.receiveIf b = s := by
  cases b with
  | false => rfl
  | true => exact State.receive_of_pend (h.resolve_left nofun)

theorem State.tick_cons {s : State} {t : Tick} {ts : List Tick} (h : s.script = t :: ts) : s.tick = t := by
  simp [State.tick, h]

/-- Settles O45: the word meets the state that reception leaves, seen at the inputs of the step's tick. -/
theorem receptionHappensBeforeTheWord : Obligations.ReceptionHappensBeforeTheWord := by
  intro s
  obtain ⟨hpend, hiff1, hiff2⟩ := s.prepared_received
  obtain ⟨-, nmi, int, blocked⟩ := receptionHoldsOneInterrupt (s.inputsSet s.tick)
  obtain ⟨p, f, q, a, m, d, heq⟩ := s.prepared_eq
  refine ⟨fun h => ?_, fun hr hp hn => ?_, fun hr hp hn hi hf he => ?_, fun hr hp hn hor => ?_,
    by rw [heq], by rw [heq], by rw [heq], by rw [heq], by rw [heq], by rw [heq], fun t ts hs => ⟨State.tick_cons hs, ?_⟩, rfl⟩
  · rw [hpend, hiff1, hiff2, State.receiveIf_idle (s := s.inputsSet s.tick) h]
    exact ⟨rfl, rfl, rfl⟩
  · rw [hpend, hiff1, hiff2, hr, State.receiveIf, if_pos rfl, nmi hp hn]
    exact ⟨rfl, rfl, rfl⟩
  · rw [hpend, hiff1, hiff2, hr, State.receiveIf, if_pos rfl, int hp hn hi hf he]
    exact ⟨rfl, rfl, rfl⟩
  · rw [hpend, hiff1, hiff2, hr, State.receiveIf, if_pos rfl, blocked hp hn hor]
    exact ⟨hp, rfl, rfl⟩
  · rw [heq, hs]
    rfl

/-! ### The end of a run -/

theorem takes_of_not_transfer {i : Instr} (s : State) (h : isTransfer i = false) : takes i s = false := by
  cases i
  case j | jr | jc | jrc | bne | beq => cases h
  all_goals rfl

theorem opensWindow_iff {i : Instr} {s : State} : opensWindow i s = true ↔ i.annot.eoi = true ∨ takes i s = true := by
  rw [opensWindow, Bool.or_eq_true]

/-- When a step ends a run, in terms of the word it takes and the state it gives. -/
theorem stopsAt_iff {a : Word} {s : State} :
    stopsAt a s = true ↔ ∃ i t, decode s.cfg.layout s.prepared.nextWord = .ok i ∧ step s = .next t ∧ s.tick.rst = false ∧
      opensWindow i s.prepared.dequeued = true ∧ s.prepared.pend = none ∧ t.archPC = a := by
  unfold stopsAt
  split
  · rename_i i t hd hs
    simp [hd, hs, and_assoc]
  · rename_i hno
    constructor
    · nofun
    · rintro ⟨i, t, hd, hs, -⟩
      exact absurd hs (hno i t hd)

/-- With no interrupt held, an instruction leaves none held. -/
theorem exec_pend_none {i : Instr} {s t : State} (hp : s.pend = none) (he : exec i s = .next t) : t.pend = none :=
  (untouched_pend.exec he (.inl hp) fun _ core => core.pend).trans hp

/-- Settles O46, by what ends a run. -/
theorem runEndsOnlyAtAWindow : Obligations.RunEndsOnlyAtAWindow := by
  refine ⟨fun a s i hd heoi htakes => ?_, fun a s hstop => ?_, fun a s t i hr hd hw hp hs ha => ?_,
    fun i s hi => takes_of_not_transfer s hi⟩
  · rw [Bool.eq_false_iff]
    intro hstop
    obtain ⟨j, t, hd', -, -, hw, -⟩ := stopsAt_iff.mp hstop
    cases hd.symm.trans hd'
    rcases opensWindow_iff.mp hw with h | h
    · simp [heoi] at h
    · simp [htakes] at h
  · obtain ⟨i, t, hd, hs, hr, hw, hp, ha⟩ := stopsAt_iff.mp hstop
    have he : exec i s.prepared.dequeued = .next t := (step_of_decode hr hd).symm.trans hs
    exact ⟨hr, hp, ⟨i, hd, opensWindow_iff.mp hw⟩, t, hs, ha, exec_pend_none (s := s.prepared.dequeued) hp he⟩
  · exact stopsAt_iff.mpr ⟨i, t, hd, hs, hr, opensWindow_iff.mpr hw, hp, ha⟩

/-! ### The bytes fetched ahead -/

theorem State.xlatorView_held {s : State} {a : Word} {v : Byte} (h : Memory.find s.prefetched a.toNat = some v) :
    s.xlatorView a = v := by
  simp [State.xlatorView, h]

theorem State.xlatorView_not_held {s : State} {a : Word} (h : Memory.find s.prefetched a.toNat = none) :
    s.xlatorView a = s.busRead a := by
  simp [State.xlatorView, h]

/-- Fetching ahead does not change what the translator sees. -/
theorem State.heldBytes_view (s : State) (n : Nat) (a : Word) :
    (Memory.find (s.heldBytes n) a.toNat).getD (s.busRead a) = s.xlatorView a := by
  induction n with
  | zero => rfl
  | succ n ih =>
    rw [State.heldBytes, State.holding]
    by_cases ha : a = s.fetchPC + BitVec.ofNat 16 n
    · rw [← ha, Memory.find_store_self, ih]
      rfl
    · rw [Memory.find_store_ne _ _ _ _ (fun h => ha (BitVec.eq_of_toNat_eq h)), ih]

/-- Each of the bytes fetched ahead is held, with the content the translator saw. -/
theorem State.heldBytes_fetched (s : State) {n k : Nat} (h : k < n) :
    Memory.find (s.heldBytes n) (s.fetchPC + BitVec.ofNat 16 k).toNat =
      some (s.xlatorView (s.fetchPC + BitVec.ofNat 16 k)) := by
  induction n with
  | zero => omega
  | succ n ih =>
    rw [State.heldBytes, State.holding]
    by_cases hk : s.fetchPC + BitVec.ofNat 16 k = s.fetchPC + BitVec.ofNat 16 n
    · rw [hk, Memory.find_store_self, State.heldBytes_view]
    · have hne : k ≠ n := fun e => hk (by rw [e])
      rw [Memory.find_store_ne _ _ _ _ (fun e => hk (BitVec.eq_of_toNat_eq e)), ih (by omega)]

/-- A cell is found after letting go of cells by their addresses, if its address stays. -/
theorem Memory.find_filter {p : Host.Cell → Bool} {x : Nat} {stays : Bool} (hp : ∀ v, p (x, v) = stays)
    (m : List Host.Cell) : Memory.find (m.filter p) x = if stays then Memory.find m x else none := by
  induction m with
  | nil => simp [Memory.find]
  | cons c m ih =>
    obtain ⟨a, u⟩ := c
    by_cases hx : x = a
    · subst hx
      cases stays <;> simp_all [Memory.find]
    · cases hq : p (a, u) <;> simp_all [Memory.find]

theorem State.translateOne_find (s : State) (a : Word) :
    Memory.find s.translateOne.prefetched a.toNat =
      if (s.xlateAt s.fetchPC).1 ≤ (a - s.fetchPC).toNat then Memory.find s.prefetched a.toNat else none := by
  have address (v : Byte) : outsideBytes s.fetchPC (s.xlateAt s.fetchPC).1 (a.toNat, v) =
      decide ((s.xlateAt s.fetchPC).1 ≤ (a - s.fetchPC).toNat) := by
    rw [outsideBytes, BitVec.ofNat_toNat, BitVec.setWidth_eq]
  rw [State.translateOne_prefetched, Memory.find_filter address]
  simp only [decide_eq_true_eq]

/-- Settles O50: fetching, storing, translating and flushing, each by what it does to the held bytes. -/
theorem fetchedBytesStayUntilTranslatedOrFlushed : Obligations.FetchedBytesStayUntilTranslatedOrFlushed := by
  refine ⟨fun s n k h => s.heldBytes_fetched h, fun s n x v h => s.heldBytes_keeps n x v h,
    fun s a b u v h => State.xlatorView_held (s := s.writeMem b v) h, fun s a => ⟨fun h => ?_, fun h => ?_⟩,
    fun s target a => State.xlatorView_not_held (s := s.flush target) rfl⟩
  · rw [s.translateOne_find, if_pos h]
  · rw [s.translateOne_find, if_neg (Nat.not_le.mpr h)]

/-! ### A step when the script is over -/

theorem State.tick_of_script_nil {s : State} (h : s.script = []) :
    s.tick = { rst := false, intReq := s.intReq, nmiReq := s.nmiReq, receive := false,
               prefetch := Config.prefetchDepth s.draws, translate := if s.queue.isEmpty then 1 else 0 } := by
  simp [State.tick, h]

/-- The environment does nothing but let the translator fetch ahead and, with an empty queue, translate. -/
theorem State.prepared_of_script_nil {s : State} (h : s.script = []) :
    s.prepared =
      (s.prefetchBytes (Config.prefetchDepth s.draws)).translateGroups (if s.queue.isEmpty then 1 else 0) := by
  have same : s.inputsSet s.tick = s := by
    rw [State.tick_of_script_nil h, State.inputsSet, h]
    cases s
    simp_all
  rw [State.prepared, same, State.tick_of_script_nil h]
  rfl

/-- Settles O47: the step takes the word; with the script over, what is prepared differs in the bytes held ahead. -/
theorem stepRunsTheDecodedInstruction : Obligations.StepRunsTheDecodedInstruction := by
  refine ⟨fun s i => step_of_decode, fun s e => step_of_reject, fun s w ws i hs hq hd => ?_⟩
  have prep : s.prepared = s.prefetchBytes (Config.prefetchDepth s.draws) := by
    rw [State.prepared_of_script_nil hs, hq]
    rfl
  refine ⟨s.heldBytes (Config.prefetchDepth s.draws), ?_, fun x v => s.heldBytes_keeps _ x v⟩
  have word : s.prepared.nextWord = w := by rw [prep, State.nextWord, State.prefetchBytes_queue, hq, List.headD_cons]
  rw [step_of_decode (by rw [State.tick_of_script_nil hs]) (by rw [word]; exact hd), prep, State.dequeued,
    State.prefetchBytes_queue, hq]
  rfl

/-- Settles O49: the one group translated is that of the table's entry, and its first word is the next word. -/
theorem translatorDeliversTheGroupAtFetchPC : Obligations.TranslatorDeliversTheGroupAtFetchPC := by
  intro s x w ws i hs hq hx hg hd
  have prep : s.prepared = (s.prefetchBytes (Config.prefetchDepth s.draws)).translateOne := by
    rw [State.prepared_of_script_nil hs, hq]
    rfl
  have entry : (s.prefetchBytes (Config.prefetchDepth s.draws)).xlateAt s.fetchPC = (x.len, w :: ws) := by
    simp [State.xlateAt, hx, hg]
  have queue : s.prepared.queue = w :: ws := by
    rw [prep, State.translateOne_queue, State.prefetchBytes_fetchPC, entry, State.prefetchBytes_queue, hq]
    rfl
  have fetch : s.prepared.fetchPC = s.fetchPC + BitVec.ofNat 16 x.len := by
    rw [prep, State.translateOne_fetchPC, State.prefetchBytes_fetchPC, entry]
  have word : s.prepared.nextWord = w := by rw [State.nextWord, queue, List.headD_cons]
  refine ⟨s.prepared.prefetched, s.prepared.draws, ?_⟩
  rw [step_of_decode (by rw [State.tick_of_script_nil hs]) (by rw [word]; exact hd), State.dequeued, queue, ← fetch, prep]
  rfl

end Sys2Proof.Machine
end

section
/-! PROOFS. The register file (spec/10_state.md R22 to R29): pairs and their halves as numbers, R0, and sign extension. -/

namespace Sys2Proof.Machine
open Sys2Proof.Claims

theorem toNat_append_eq_add {n m : Nat} (x : BitVec n) (y : BitVec m) :
    (x ++ y).toNat = 2 ^ m * x.toNat + y.toNat := by
  rw [BitVec.toNat_append, Nat.shiftLeft_eq, Nat.mul_comm, ← Nat.two_pow_add_eq_or_of_lt y.isLt]

theorem toNat_pair (x y : Byte) : (pair x y).toNat = 256 * x.toNat + y.toNat := toNat_append_eq_add x y

theorem Regs.read16_pair (g : Regs) {x : Reg16} {hi lo : Reg8} (h : halvesOf x = some (hi, lo)) :
    g.read16 x = pair (g.read8 hi) (g.read8 lo) := by
  cases x <;> cases h <;> rfl

theorem Regs.write16_pair (g : Regs) {x : Reg16} {hi lo : Reg8} (h : halvesOf x = some (hi, lo)) (v : Word) :
    (g.write16 x v).read8 hi = hi8 v ∧ (g.write16 x v).read8 lo = lo8 v := by
  cases x <;> cases h <;> exact ⟨rfl, rfl⟩

theorem halvesOf_ne {x : Reg16} {hi lo : Reg8} (h : halvesOf x = some (hi, lo)) : hi ≠ lo ∧ hi ≠ .r0 ∧ lo ≠ .r0 := by
  cases x <;> cases h <;> decide

/-- A write to a 16-bit register leaves every byte that is no half of it. -/
theorem Regs.read8_write16_of_not_half (g : Regs) {x : Reg16} {y : Reg8} (v : Word) (h : isHalfOf y x = false) :
    (g.write16 x v).read8 y = g.read8 y := by
  cases x <;> cases y <;> first | rfl | cases h

/-- A write to a byte leaves every 16-bit register that it is no half of. -/
theorem Regs.read16_write8_of_not_half (g : Regs) {x : Reg8} {y : Reg16} (b : Byte) (h : isHalfOf x y = false) :
    (g.write8 x b).read16 y = g.read16 y := by
  cases x <;> cases y <;> first | rfl | cases h

/-- Settles O6: a pair is read and written through its halves, and what is written to one half is not in the other. -/
theorem pairViewsShareTheirHalves : Obligations.PairViewsShareTheirHalves := by
  refine ⟨fun g x hi lo v b h => ?_, Regs.read16_write16_self, Regs.read8_write8_self, Regs.read16_write16_ne,
    fun g x y v => g.read8_write16_of_not_half v, Regs.read8_write8_ne, fun g x y b => g.read16_write8_of_not_half b,
    rfl, rfl, rfl, rfl, rfl, rfl⟩
  obtain ⟨hne, hhi, hlo⟩ := halvesOf_ne h
  obtain ⟨whi, wlo⟩ := g.write16_pair h v
  have blo := (g.read8 lo).isLt
  refine ⟨whi.trans (hi8_eq_ofNat v), wlo.trans (lo8_eq_ofNat v), ?_, ?_, ?_⟩
  · rw [g.read16_pair h, toNat_pair]
  · rw [Regs.read16_pair _ h, Regs.read8_write8_self _ _ _ hhi, Regs.read8_write8_ne _ _ _ _ hne.symm, g.read16_pair h,
      toNat_pair, toNat_pair]
    omega
  · rw [Regs.read16_pair _ h, Regs.read8_write8_self _ _ _ hlo, Regs.read8_write8_ne _ _ _ _ hne, g.read16_pair h,
      toNat_pair, toNat_pair]
    omega

/-- Settles O7: R0 has no cell, and the three classes of operand read the same cells. -/
theorem zeroRegisterAndSignExtension : Obligations.ZeroRegisterAndSignExtension := fun _ =>
  ⟨rfl, rfl, rfl, fun _ => rfl, fun _ => rfl, fun _ => rfl, fun _ => rfl⟩

end Sys2Proof.Machine
end

section
/-! PROOFS. The ALU arithmetic instructions (spec/40_alu_arithmetic.md R100 to R110): sums and differences as exact numbers, and
the overflow equation as the exact signed result that leaves the range. -/

namespace Sys2Proof.Machine
open Sys2Proof.Claims

theorem add_eq_sum {w : Nat} (a b : BitVec w) : a + b = sum a b := by
  rw [sum, BitVec.ofNat_add, BitVec.ofNat_toNat, BitVec.ofNat_toNat, BitVec.setWidth_eq, BitVec.setWidth_eq]

theorem sub_eq_diff {w : Nat} (a b : BitVec w) : a - b = diff a b := by
  rw [diff, Int.sub_eq_add_neg, BitVec.ofInt_add, BitVec.ofInt_neg, BitVec.ofInt_natCast, BitVec.ofInt_natCast,
    BitVec.ofNat_toNat, BitVec.ofNat_toNat, BitVec.setWidth_eq, BitVec.setWidth_eq, BitVec.sub_eq_add_neg]

/-- R101: operands of one sign with a result of the other. -/
theorem add_overflow_eq {w : Nat} (a b : BitVec w) :
    (a.msb == b.msb && (a + b).msb != a.msb) = outOfRange w (a.toInt + b.toInt) := by
  have equation := BitVec.saddOverflow_eq a b
  rw [bne, ← equation, BitVec.saddOverflow, ← Bool.decide_or, outOfRange, decide_eq_decide]
  exact or_comm

/-- R101: operands of different signs with a result of the other sign than the first. -/
theorem sub_overflow_eq {w : Nat} (a b : BitVec w) :
    (a.msb != b.msb && (a - b).msb != a.msb) = outOfRange w (a.toInt - b.toInt) := by
  have signs : (a.msb != b.msb && (a - b).msb != a.msb) = a.ssubOverflow b := by
    rw [BitVec.ssubOverflow_eq]
    cases a.msb <;> cases b.msb <;> cases (a - b).msb <;> rfl
  rw [signs, BitVec.ssubOverflow, ← Bool.decide_or, outOfRange, decide_eq_decide]
  exact or_comm

theorem two_pow_le_iff (k n : Nat) : 2 ^ k ≤ n ↔ 2 ^ k - 1 < n := by
  have := Nat.two_pow_pos k
  omega

/-- The ADD columns of R101 and R102 are one for every width: the half carry leaves bit `w - 5`. -/
theorem addFlags_eq_addTable {w : Nat} (a b : BitVec w) : addFlags (w - 4) a b = addTable a b := by
  simp only [addFlags, add_overflow_eq]
  simp only [addTable, BitVec.msb_eq_getLsbD_last, add_eq_sum, beq_eq_decide, two_pow_le_iff]

/-- The SUB columns of R101 and R102. -/
theorem subFlags_eq_subTable {w : Nat} (a b : BitVec w) : subFlags (w - 4) a b = subTable a b := by
  simp only [subFlags, sub_overflow_eq]
  simp only [subTable, BitVec.msb_eq_getLsbD_last, sub_eq_diff, beq_eq_decide]

/-- Settles O10: the flag column is that of width 8. -/
theorem addWritesTheSumAndItsFlags : Obligations.AddWritesTheSumAndItsFlags := by
  refine ⟨fun an rd rs rt s hf => ?_, fun an rd rs imm s hf => ?_, fun _ _ _ _ _ => rfl, fun _ _ _ _ _ => rfl⟩
  all_goals
    rw [← add_eq_sum, ← addFlags_eq_addTable]
    exact completesWriting_of_alu8 0 rfl hf

/-- Settles O11: the flag column is that of width 8. -/
theorem subWritesTheDifferenceAndItsFlags : Obligations.SubWritesTheDifferenceAndItsFlags := by
  refine ⟨fun an rd rs rt s hf => ?_, fun an rd rs imm s hf => ?_, fun _ _ _ _ _ => rfl, fun _ _ _ _ _ => rfl⟩
  all_goals
    rw [← sub_eq_diff, ← subFlags_eq_subTable]
    exact completesWriting_of_alu8 0 rfl hf

/-- Settles O12: the flag column is that of width 16, and `signed16` of the immediate is its sign extension by definition. -/
theorem add16WritesTheSumAndItsFlags : Obligations.Add16WritesTheSumAndItsFlags := by
  refine ⟨fun an rd rs rt s hf => ?_, fun an rd rs imm s hf => ?_, fun _ _ _ _ _ => rfl, fun _ _ _ _ _ => rfl⟩
  all_goals
    rw [← add_eq_sum, ← addFlags_eq_addTable]
    exact completesWriting_of_alu16 0 rfl fun hd => hf ((OpW.holdsF_toX_iff rd).mp hd)

/-- Settles O13: the flag column is that of width 16, and its carry the borrow from bit 16. -/
theorem sub16WritesTheDifferenceAndItsFlags : Obligations.Sub16WritesTheDifferenceAndItsFlags := by
  refine ⟨fun an rd rs rt s hf => ?_, fun an rd rs imm s hf => ?_, fun _ _ _ _ _ => rfl, fun _ _ _ _ _ => rfl⟩
  all_goals
    rw [← sub_eq_diff, ← subFlags_eq_subTable]
    exact completesWriting_of_alu16 0 rfl fun hd => hf ((OpW.holdsF_toX_iff rd).mp hd)

end Sys2Proof.Machine
end

section
/-! PROOFS. The logical instructions (spec/41_alu_logical.md R120 to R129, R132, R133, R135, R136): their flag rows, and the twelve
bit movements as doubling and halving. -/

namespace Sys2Proof.Machine
open Sys2Proof.Claims

/-! ### Flag rows -/

theorem parity8_eq_evenParity (v : Byte) : parity8 v = evenParity v := parityIsOneForAnEvenCount v

theorem lo8_eq_low (r : Word) : lo8 r = low r := lo8_eq_ofNat r

theorem low_getLsbD_seven (r : Word) : (low r).getLsbD 7 = r.getLsbD 7 := by
  simp [low]

/-- A bit of a conjunction is 1 only where both operands have it, so operands of one sign give a result of that sign. -/
theorem pvLogic_and (p : Config.PvLogic) (a b : Word) : pvLogic p a b (a &&& b) = pvTable p a b (a &&& b) := by
  cases p with
  | additionEq =>
    rw [pvLogic, pvTable, BitVec.getLsbD_and]
    cases a.getLsbD 7 <;> cases b.getLsbD 7 <;> rfl
  | subtractionEq => rfl
  | other => rfl

theorem pvLogic_or (p : Config.PvLogic) (a b : Word) : pvLogic p a b (a ||| b) = pvTable p a b (a ||| b) := by
  cases p with
  | additionEq =>
    rw [pvLogic, pvTable, BitVec.getLsbD_or]
    cases a.getLsbD 7 <;> cases b.getLsbD 7 <;> rfl
  | subtractionEq => rfl
  | other => rfl

theorem andFlags_eq (p : Config.PvLogic) (a b : Word) :
    andFlags p a b (a &&& b) = andOrTable true (pvTable p a b (a &&& b)) (a &&& b) := by
  simp only [andFlags, andOrTable, pvLogic_and, lo8_eq_low, beq_eq_decide]

theorem orFlags_eq (p : Config.PvLogic) (a b : Word) :
    orFlags p a b (a ||| b) = andOrTable false (pvTable p a b (a ||| b)) (a ||| b) := by
  simp only [orFlags, andOrTable, pvLogic_or, lo8_eq_low, beq_eq_decide]

theorem xorFlags_eq (r : Word) : xorFlags r = parityTable (low r) (some false) := by
  simp only [xorFlags, parityTable, low_getLsbD_seven, parity8_eq_evenParity, lo8_eq_low, beq_eq_decide]

theorem rldFlags_eq (r : Byte) : rldFlags r = parityTable r none := by
  simp only [rldFlags, parityTable, parity8_eq_evenParity, beq_eq_decide]

theorem shiftFlags_eq (sel : ShiftSel) (r : Byte) (c : Bool) : shiftFlags sel r c = shiftTable sel r c := by
  cases sel <;> simp [shiftFlags, isAVariant, shiftTable, parityTable, parity8_eq_evenParity, beq_eq_decide]

/-! ### The statements about and, or and xor -/

/-- Settles O14: the row of R121, where operands of one sign cannot give a result of the other. -/
theorem andWritesTheConjunction : Obligations.AndWritesTheConjunction := by
  refine ⟨fun an rd rs rt s hf => ?_, fun an rd rs imm s hf => ?_, fun _ _ _ _ _ => rfl, fun _ _ _ _ _ => rfl⟩
  all_goals
    rw [← andFlags_eq]
    exact completesWriting_of_alu16 0 rfl hf

/-- Settles O15: the row of R122, where the same holds of P/V. -/
theorem orWritesTheDisjunction : Obligations.OrWritesTheDisjunction := by
  refine ⟨fun an rd rs rt s hf => ?_, fun an rd rs imm s hf => ?_, fun _ _ _ _ _ => rfl, fun _ _ _ _ _ => rfl⟩
  all_goals
    rw [← orFlags_eq]
    exact completesWriting_of_alu16 0 rfl hf

/-- Settles O16: the row of R123, whose parity is that of the low byte. -/
theorem xorWritesTheExclusiveOr : Obligations.XorWritesTheExclusiveOr := by
  refine ⟨fun an rd rs rt s hf => ?_, fun an rd rs imm s hf => ?_, fun _ _ _ _ _ => rfl, fun _ _ _ _ _ => rfl⟩
  all_goals
    rw [← xorFlags_eq]
    exact completesWriting_of_alu16 0 rfl hf

/-! ### Bit movements and nibbles, as numbers -/

/-- One place to the left is twice the byte, of which bit 7 is lost, and the bit that comes in. -/
theorem shiftLeft1_eq (b : Byte) (x : Bool) : shiftLeft1 b x = BitVec.ofNat 8 (2 * b.toNat + x.toNat) := by
  apply BitVec.eq_of_toNat_eq
  rw [shiftLeft1, toNat_append_eq_add, BitVec.extractLsb'_toNat, BitVec.toNat_ofBool, BitVec.toNat_ofNat, Nat.shiftRight_zero]
  have := x.toNat_le
  omega

/-- One place to the right is half the byte, and the bit that comes in at the place of 128. -/
theorem shiftRight1_eq (b : Byte) (x : Bool) : shiftRight1 b x = BitVec.ofNat 8 (b.toNat / 2 + 128 * x.toNat) := by
  apply BitVec.eq_of_toNat_eq
  rw [shiftRight1, toNat_append_eq_add, BitVec.extractLsb'_toNat, BitVec.toNat_ofBool, BitVec.toNat_ofNat,
    Nat.shiftRight_eq_div_pow]
  have := x.toNat_le
  omega

theorem toNat_bit_seven (b : Byte) : (b.getLsbD 7).toNat = b.toNat / 128 := by
  rw [toNat_getLsbD_eq]
  omega

theorem toNat_bit_zero (b : Byte) : (b.getLsbD 0).toNat = b.toNat % 2 := by
  rw [toNat_getLsbD_eq, pow_zero, Nat.div_one]

theorem shiftResult_eq_shifted (sel : ShiftSel) (b : Byte) (cin : Bool) : shiftResult sel b cin = shifted sel b cin := by
  cases sel
  case rlc | rlca | rl | rla | sla | sll =>
    simp only [shiftResult, shifted, shiftLeft1_eq, toNat_bit_seven, Bool.toNat_false, Bool.toNat_true, Nat.add_zero]
  case rrc | rrca | rr | rra | sra | srl =>
    simp only [shiftResult, shifted, shiftRight1_eq, toNat_bit_seven, toNat_bit_zero, Bool.toNat_false, Nat.mul_zero,
      Nat.add_zero]

theorem bit_seven_eq (b : Byte) : b.getLsbD 7 = decide (128 ≤ b.toNat) := by
  rw [Bool.eq_iff_iff, decide_eq_true_eq, ← Bool.toNat_eq_one, toNat_bit_seven]
  omega

theorem bit_zero_eq (b : Byte) : b.getLsbD 0 = decide (b.toNat % 2 = 1) := by
  rw [Bool.eq_iff_iff, decide_eq_true_eq, ← Bool.toNat_eq_one, toNat_bit_zero]

theorem shiftCarry_eq_shiftedOut (sel : ShiftSel) (b : Byte) : shiftCarry sel b = shiftedOut sel b := by
  cases sel
  case rlc | rlca | rl | rla | sla | sll => exact bit_seven_eq b
  case rrc | rrca | rr | rra | sra | srl => exact bit_zero_eq b

theorem mergeNibbles_eq (x y : Byte) :
    mergeNibbles x y = BitVec.ofNat 8 (x.toNat % 16 * 16 + y.toNat % 16) := by
  apply BitVec.eq_of_toNat_eq
  rw [mergeNibbles, toNat_append_eq_add, BitVec.extractLsb'_toNat, BitVec.extractLsb'_toNat, BitVec.toNat_ofNat,
    Nat.shiftRight_zero, Nat.shiftRight_zero]
  omega

/-- Settles O18: result, carry and flag row of the model are those of the table, selector by selector. -/
theorem shiftrotateFollowsItsTable : Obligations.ShiftrotateFollowsItsTable := by
  refine ⟨fun an rd rs sel s hf => ?_, fun _ _ _ _ _ => rfl, by decide⟩
  rw [← shiftResult_eq_shifted, ← shiftCarry_eq_shiftedOut, ← shiftFlags_eq]
  exact completesWriting_of_alu8 0 rfl hf

/-- Settles O20: the first nibble counts sixteen times. -/
theorem merge44JoinsTheLowNibbles : Obligations.Merge44JoinsTheLowNibbles := by
  refine ⟨fun an rd rs rt s hf => ?_, fun _ _ _ _ _ => rfl⟩
  rw [← mergeNibbles_eq, ← rldFlags_eq]
  exact completesWriting_of_alu8 0 rfl hf

end Sys2Proof.Machine
end

section
/-! PROOFS. Decimal adjustment (spec/42_alu_special_bit.md R150, R151): the algorithm as exact arithmetic, and what it gives after a
binary sum of two packed decimal numbers. -/

namespace Sys2Proof.Machine
open Sys2Proof.Claims

/-! ### The algorithm, as numbers -/

/-- The two corrections share no bit, so joining them is adding them. -/
theorem toNat_daaCorrection_eq_fixes (a : Byte) (h c : Bool) :
    (daaCorrection a h c).toNat =
      (if daaLowFix a h = true then 0x06 else 0) + (if daaHighFix a c = true then 0x60 else 0) := by
  rw [daaCorrection]
  cases daaLowFix a h <;> cases daaHighFix a c <;> rfl

theorem toNat_daaCorrection (a : Byte) (h c : Bool) : (daaCorrection a h c).toNat = daaCorr a h c := by
  simp only [toNat_daaCorrection_eq_fixes, daaCorr, daaLowFix, daaHighFix, Bool.or_eq_true, decide_eq_true_eq]

theorem daaResult_eq_daaValue (a : Byte) (n h c : Bool) : daaResult a n h c = daaValue a n h c := by
  rw [daaResult, daaValue, sub_eq_diff, add_eq_sum, diff, sum, toNat_daaCorrection]

theorem daaHalf_eq (a : Byte) (n h : Bool) :
    daaHalf a n h = if n then decide (h = true ∧ a.toNat % 16 < 6) else decide (9 < a.toNat % 16) := by
  rw [daaHalf, Bool.decide_and, Bool.decide_eq_true]

theorem daaHighFix_eq (a : Byte) (c : Bool) : daaHighFix a c = decide (c = true ∨ 0x99 < a.toNat) := by
  rw [daaHighFix, Bool.decide_or, Bool.decide_eq_true]

theorem daaFlags_eq_daaTable (a : Byte) (n h c : Bool) :
    daaFlags (daaResult a n h c) (daaHalf a n h) (daaHighFix a c) = daaTable a n h c := by
  simp only [daaFlags, daaTable, daaResult_eq_daaValue, daaHalf_eq, daaHighFix_eq, parity8_eq_evenParity, beq_eq_decide]

/-- Settles O23: F.N, F.H and F.C are bits 1, 4 and 0 of F before the instruction. -/
theorem daaFollowsItsAlgorithm : Obligations.DaaFollowsItsAlgorithm := by
  refine ⟨fun an rd rs s hf => ?_, fun _ _ _ _ => rfl⟩
  rw [← daaResult_eq_daaValue, ← daaFlags_eq_daaTable]
  exact completesWriting_of_alu8 0 rfl hf

/-! ### After a sum of packed decimal numbers -/

theorem toNat_bcd {x : Nat} (hx : x < 100) : (bcd x).toNat = 16 * (x / 10) + x % 10 := by
  rw [bcd, BitVec.toNat_ofNat]
  omega

section
variable {x y : Nat} (hx : x < 100) (hy : y < 100)
include hx hy

theorem toNat_bcd_add :
    (bcd x + bcd y).toNat = (16 * (x / 10 + y / 10) + (x % 10 + y % 10)) % 256 := by
  rw [BitVec.toNat_add, toNat_bcd hx, toNat_bcd hy]
  omega

/-- 0x06 is added exactly where the units carry: their sum is above 9, or has left the nibble. -/
theorem daaLowFix_bcd_add {h : Bool} (hh : (addFlags 4 (bcd x) (bcd y)).h = some h) :
    daaLowFix (bcd x + bcd y) h = true ↔ 10 ≤ x % 10 + y % 10 := by
  cases hh
  rw [daaLowFix, Bool.or_eq_true, decide_eq_true_eq, decide_eq_true_eq, toNat_bcd_add hx hy, toNat_bcd hx, toNat_bcd hy]
  omega

/-- 0x60 is added exactly where the decimal sum has a third digit. -/
theorem daaHighFix_bcd_add {c : Bool} (hc : (addFlags 4 (bcd x) (bcd y)).c = some c) :
    daaHighFix (bcd x + bcd y) c = true ↔ 100 ≤ x + y := by
  cases hc
  rw [daaHighFix, Bool.or_eq_true, decide_eq_true_eq, decide_eq_true_eq, toNat_bcd_add hx hy, toNat_bcd hx, toNat_bcd hy]
  have packed : 16 * (x / 10) + x % 10 + (16 * (y / 10) + y % 10) = 16 * (x / 10 + y / 10) + (x % 10 + y % 10) := by omega
  have decimal : x + y = 10 * (x / 10 + y / 10) + (x % 10 + y % 10) := by omega
  have tens : x / 10 + y / 10 ≤ 18 := by omega
  have units : x % 10 + y % 10 ≤ 18 := by omega
  rw [packed, decimal]
  generalize x / 10 + y / 10 = t at tens
  generalize x % 10 + y % 10 = u at units
  omega

end

/-- Settles O24: each correction moves a digit's excess over 9 into the next digit. -/
theorem daaAfterAddGivesTheDecimalSum : Obligations.DaaAfterAddGivesTheDecimalSum := by
  intro x y hx hy h c hh hc
  have low := daaLowFix_bcd_add hx hy hh
  have high := daaHighFix_bcd_add hx hy hc
  refine ⟨?_, by rw [Bool.eq_iff_iff, high, decide_eq_true_eq]⟩
  apply BitVec.eq_of_toNat_eq
  rw [daaResult, if_neg (by decide), BitVec.toNat_add, toNat_daaCorrection_eq_fixes, toNat_bcd_add hx hy,
    toNat_bcd (Nat.mod_lt _ (by decide))]
  simp only [low, high]
  split <;> split <;> omega

end Sys2Proof.Machine
end

section
/-! PROOFS. Loads, stores and the I/O instructions (spec/44_load_store.md R190 to R192, 46_io R210 to R213), the memory map
(20_memory R52, R59), and the interrupt-control instructions (45_interrupt_control R200 to R202). -/

namespace Sys2Proof.Machine
open Sys2Proof.Claims

/-! ### Addresses and the memory map -/

theorem State.dataAddr_eq_ofInt (s : State) (rb : OpW) (imm : Byte) :
    s.dataAddr rb imm = BitVec.ofInt 16 (((s.valW rb).toNat : Int) + imm.toInt) := by
  rw [BitVec.ofInt_add, BitVec.ofInt_natCast, BitVec.ofNat_toNat, BitVec.setWidth_eq, ← sext16_eq_ofInt, State.dataAddr]

/-- Settles O28: the displacement is sign-extended, so from base 0 it reaches 128 bytes to either side. -/
theorem addressIsBasePlusSignedDisplacement : Obligations.AddressIsBasePlusSignedDisplacement := by
  refine ⟨State.dataAddr_eq_ofInt, fun s imm => ?_⟩
  have base : s.dataAddr .r0 imm = sext16 imm := BitVec.zero_add _
  have reach : ∀ v : Byte, (sext16 v).toNat ≤ 0x7F ∨ 0xFF80 ≤ (sext16 v).toNat := by decide
  rw [base]
  exact reach imm

/-- An address lies in a region if it is one of its bytes, counted from the base modulo 65536. -/
theorem inRegion_iff {r : Config.Region} {a : Word} :
    inRegion r a = true ↔ ∃ k, k < r.len ∧ a = r.base + BitVec.ofNat 16 k := by
  rw [inRegion, decide_eq_true_eq]
  constructor
  · intro h
    exact ⟨_, h, by rw [BitVec.ofNat_toNat, BitVec.setWidth_eq, BitVec.add_comm, BitVec.sub_add_cancel]⟩
  · rintro ⟨k, hk, rfl⟩
    rw [BitVec.add_comm, BitVec.add_sub_cancel, BitVec.toNat_ofNat]
    exact (Nat.mod_le ..).trans_lt hk

theorem State.kindAt_cons_in {s : State} {r : Config.Region} {rs : List Config.Region} {a : Word}
    (hm : s.cfg.memmap = r :: rs) (h : inRegion r a = true) : s.kindAt a = r.kind := by
  simp [State.kindAt, hm, h]

theorem State.kindAt_cons_out {s : State} {r : Config.Region} {rs : List Config.Region} {a : Word}
    (hm : s.cfg.memmap = r :: rs) (h : inRegion r a = false) :
    s.kindAt a = { s with cfg := { s.cfg with memmap := rs } }.kindAt a := by
  simp [State.kindAt, hm, h]

theorem State.kindAt_nil {s : State} (a : Word) (hm : s.cfg.memmap = []) : s.kindAt a = .ram := by
  simp [State.kindAt, hm]

/-- What MEMMAP places at an address is in the parameters alone. -/
theorem State.kindAt_congr {s u : State} (h : u.cfg = s.cfg) (a : Word) : u.kindAt a = s.kindAt a := by
  rw [State.kindAt, State.kindAt, h]

/-- Settles O32: the first region decides for the addresses in it. -/
theorem memoryMapIsItsFirstRegion : Obligations.MemoryMapIsItsFirstRegion := by
  refine ⟨fun s r rs a hm => ⟨fun h => State.kindAt_cons_in hm (inRegion_iff.mpr h), fun h => ?_⟩,
    fun s a => State.kindAt_nil a, rfl⟩
  refine State.kindAt_cons_out hm (Bool.eq_false_iff.mpr fun hin => ?_)
  obtain ⟨k, hk, ha⟩ := inRegion_iff.mp hin
  exact h k hk ha

/-! ### Load and store -/

theorem exec_ld (an : Annot) (rd : Reg8) (rb : OpW) (imm : Byte) (s : State) :
    exec (.ld an rd rb imm) s =
      ((s.advance an).drew (s.openReads (s.dataAddr rb imm))).alu8 an rd (s.busRead (s.dataAddr rb imm)) Gen.dc := rfl

/-- Settles O29: a bus read where there is memory is its content. -/
theorem ldReadsTheByteAtItsAddress : Obligations.LdReadsTheByteAtItsAddress := by
  refine ⟨fun an rd rb imm s hf => ⟨fun h => ?_, fun _ => ⟨zext16 (s.busRead (s.dataAddr rb imm)), ?_⟩⟩, fun _ _ _ _ _ => rfl⟩
  · rw [← State.busRead_mapped h]
    exact completesWriting_of_alu8 _ (exec_ld an rd rb imm s) hf
  · exact completesWriting_of_alu8 _ (exec_ld an rd rb imm s) hf

theorem exec_st (an : Annot) (ra : Reg8) (rb : OpW) (imm : Byte) (s : State) :
    exec (.st an ra rb imm) s =
      .next ((((s.advance an).writeMem (s.dataAddr rb imm) (s.val8 ra)).setFlags an.fMask Gen.dc).closed an) := rfl

theorem State.stored_writeMem (s : State) (a : Word) (v : Byte) : stored s a v (s.writeMem a v) :=
  ⟨fun h => State.readMem_writeMem_self h v, fun _ h => State.readMem_writeMem_other h v⟩

/-- Settles O30, by the law of a store at the state after PC_disp. -/
theorem stStoresTheByteAtItsAddress : Obligations.StStoresTheByteAtItsAddress := by
  refine ⟨fun an ra rb imm s => ⟨_, exec_st an ra rb imm s, ?_, ?_, s.advance_nextPC an, ⟨rfl, rfl⟩, ⟨rfl, rfl, rfl⟩,
    ⟨rfl, rfl, rfl⟩, ⟨rfl, rfl, rfl, rfl, rfl, rfl⟩⟩, fun _ _ _ _ _ => rfl⟩
  · exact (s.advance an).stored_writeMem _ _
  · exact State.keptRegs_setFlags ((s.advance an).writeMem _ _) _

/-- The end of a word leaves memory and parameters alone where it enters no interrupt. -/
theorem State.closed_mem_cfg {u : State} {an : Annot} (h : an.eoi = false ∨ u.pend = none) :
    (u.closed an).mem = u.mem ∧ (u.closed an).cfg = u.cfg := by
  cases he : an.eoi with
  | false => simp [State.closed, he]
  | true =>
    have hp : u.pend = none := h.resolve_left (by simp [he])
    rw [State.closed, he, if_pos rfl]
    exact ⟨untouched_mem.window (.inl hp), untouched_cfg.window (.inl hp)⟩

/-- Settles O31: between the two nothing writes memory, so the load reads what the store left. -/
theorem loadReturnsTheLatestStore : Obligations.LoadReturnsTheLatestStore := by
  intro an an' ra rb imm rd rb' imm' s t hwin hst haddr hram hf
  obtain ⟨u, hu, ⟨hself, -⟩, -, -, -, -, -, hpend, -, -, hcfg, -⟩ := stStoresTheByteAtItsAddress.1 an ra rb imm s
  cases hst.symm.trans hu
  obtain ⟨hmem, hcfg'⟩ := State.closed_mem_cfg (u := u) (hwin.imp_right hpend.trans)
  have mapped : (u.closed an).kindAt ((u.closed an).dataAddr rb' imm') ≠ .unmapped := by
    rw [haddr, State.kindAt_congr (hcfg'.trans hcfg), hram]
    nofun
  have read : (u.closed an).readMem ((u.closed an).dataAddr rb' imm') = s.val8 ra := by
    rw [haddr, State.readMem_congr hmem, hself hram]
  rw [← read]
  exact (ldReadsTheByteAtItsAddress.1 an' rd rb' imm' _ hf).1 mapped

/-! ### Ports -/

theorem State.portNum_eq_sum (s : State) (rb : Reg8) (imm : Byte) : s.portNum rb imm = sum (s.val8 rb) imm := add_eq_sum ..

theorem State.portData_of_head {s : State} {d : Byte} (h : s.portAnswers.head? = some d) : s.portData = d := by
  cases ha : s.portAnswers with
  | nil => simp [ha] at h
  | cons x xs => simpa [State.portData, ha] using h

theorem inFlags_eq (d : Byte) : inFlags d = parityTable d none := rldFlags_eq d

theorem exec_inp {an : Annot} {rd : Reg8} (rs : Reg8) (imm : Byte) (s : State) (hf : rd = .f → an.fMask = 0) :
    exec (.inp an rd rs imm) s =
      .next (((((s.advance an).portRead (s.portNum rs imm)).putReg (.byte rd) (zext16 s.portData)).setFlags an.fMask
        (inFlags s.portData)).closed an) :=
  (State.alu8_eq ..).trans (State.alu16_next _ _ _ _ _ fun hd => hf ((OpX.holdsF_byte_iff rd).mp hd))

/-- Settles O33: the byte is the one `portRead` records, and the port is read whatever the destination is. -/
theorem inReadsItsPortOnce : Obligations.InReadsItsPortOnce := by
  refine ⟨fun an rd rs imm s hf => ⟨s.portData, _, exec_inp rs imm s hf, ?_, ?_, fun x hx => State.portData_of_head hx, rfl,
    s.advance_nextPC an, fun _ => rfl, ⟨rfl, rfl, rfl⟩, ⟨rfl, rfl, rfl⟩, ⟨rfl, rfl, rfl, rfl, rfl, rfl⟩⟩, fun _ _ _ _ _ => rfl⟩
  · rw [← inFlags_eq]
    exact State.wrote_putReg ((s.advance an).portRead _) _ _ _ _ fun hd => hf ((OpX.holdsF_byte_iff rd).mp hd)
  · rw [← s.portNum_eq_sum]
    rfl

theorem exec_out (an : Annot) (ra rs : Reg8) (imm : Byte) (s : State) :
    exec (.out an ra rs imm) s =
      .next ((((s.advance an).portWrite (s.portNum rs imm) (s.val8 ra)).setFlags an.fMask Gen.dc).closed an) := rfl

/-- Settles O34: `portWrite` adds the one event and changes nothing else. -/
theorem outWritesItsPortOnce : Obligations.OutWritesItsPortOnce := by
  refine ⟨fun an ra rs imm s => ⟨_, exec_out an ra rs imm s, ?_, rfl, ?_, s.advance_nextPC an, fun _ => rfl, ⟨rfl, rfl, rfl⟩,
    ⟨rfl, rfl, rfl⟩, ⟨rfl, rfl, rfl, rfl, rfl, rfl⟩⟩, fun _ _ _ _ _ => rfl⟩
  · rw [← s.portNum_eq_sum]
    rfl
  · exact State.keptRegs_setFlags ((s.advance an).portWrite _ _) _

/-! ### Interrupt control -/

theorem exec_ei (an : Annot) (s : State) :
    exec (.ei an) s = .next (({ s.advance an with iff1 := true, iff2 := true, eiHold := s.cfg.eiDelay }.setFlags an.fMask
      Gen.dc).closed an) := rfl

theorem exec_di (an : Annot) (s : State) :
    exec (.di an) s = .next (({ s.advance an with iff1 := false, iff2 := false, eiHold := 0 }.setFlags an.fMask
      Gen.dc).closed an) := rfl

theorem exec_im (an : Annot) (imm : Word) (s : State) :
    exec (.im an imm) s = .next (((s.advance an).setFlags an.fMask Gen.dc).closed an) := rfl

/-- Settles O38: the two meanings write the flip-flops and `ei_hold` before SetFlags, which leaves them alone. -/
theorem eiAndDiWriteBothFlipFlops : Obligations.EiAndDiWriteBothFlipFlops := by
  refine ⟨fun an s => ⟨_, exec_ei an s, rfl, rfl, rfl, ?_, s.advance_nextPC an, fun _ => rfl, ⟨rfl, rfl⟩, ⟨rfl, rfl, rfl⟩,
      ⟨rfl, rfl, rfl, rfl, rfl, rfl⟩⟩,
    fun an s => ⟨_, exec_di an s, rfl, rfl, rfl, ?_, s.advance_nextPC an, fun _ => rfl, ⟨rfl, rfl⟩, ⟨rfl, rfl, rfl⟩,
      ⟨rfl, rfl, rfl, rfl, rfl, rfl⟩⟩, fun _ _ => rfl, fun _ _ => rfl⟩
  · exact State.keptRegs_setFlags { s.advance an with iff1 := true, iff2 := true, eiHold := s.cfg.eiDelay } _
  · exact State.keptRegs_setFlags { s.advance an with iff1 := false, iff2 := false, eiHold := 0 } _

/-- Settles O39: the meaning is PC_disp and the end every word has. -/
theorem imDoesNothing : Obligations.ImDoesNothing :=
  ⟨fun an imm s => ⟨_, exec_im an imm s, State.keptRegs_setFlags (s.advance an) _, s.advance_nextPC an, fun _ => rfl,
    ⟨rfl, rfl⟩, ⟨rfl, rfl, rfl⟩, ⟨rfl, rfl, rfl⟩, ⟨rfl, rfl, rfl, rfl, rfl, rfl⟩⟩, fun _ _ _ => rfl⟩

end Sys2Proof.Machine
end
